-- ==== Sys2Proof/Word.lean ====
section
/-! DEFINITION. The word types of the machine (00_scope.md R8, R12): all values are unsigned. -/

namespace Sys2Proof

/-- A byte: a general register, a memory cell, a timer (10_state.md R21, R29, R30, R31). -/
abbrev Byte := BitVec 8

/-- A 16-bit word: I, pc, a stack entry, an instruction word (10_state.md R24, R25, R27; 30_encoding.md R70). -/
abbrev Word := BitVec 16

/-- The 12-bit address immediate nnn (00_scope.md R12). -/
abbrev Addr12 := BitVec 12

/-- A general register's index 0x0..0xF (10_state.md R21), and any other 4-bit number the machine counts with. -/
abbrev Index := Fin 16

end Sys2Proof
end

