-- ==== Sys2Proof/Config.lean ====
section
/-! DEFINITION. What the machine fixes (00_scope.md R7): the parameters the spec leaves open, their defaults, the
fixed sizes, and the one free value, the random bytes. -/

namespace Sys2Proof

/-- CLASS0_MATCH (30_encoding.md R76, D12): which words of class 0 are CLS and RET. -/
inductive Class0Match where
  /-- The low byte alone decides. -/
  | lowByte
  /-- The whole word decides. -/
  | fullWord
  deriving DecidableEq, Repr

/-- STACK_UNDERFLOW_POLICY (40_control_flow.md R101, D6): what RET does with an empty stack. -/
inductive StackUnderflowPolicy where
  /-- SP stays 0 and pc takes `stack[0]`. -/
  | clamp
  /-- Fault StackUnderflow. -/
  | fault
  deriving DecidableEq, Repr

/-- KEY_INDEX_POLICY (43_keys_timers.md R166, D14): what SKP and SKNP do with a register value above 15. -/
inductive KeyIndexPolicy where
  /-- Fault KeyIndexOutOfRange. -/
  | fault
  /-- The low four bits name the key. -/
  | lowNibble
  /-- As a key that is not pressed. -/
  | notPressed
  deriving DecidableEq, Repr

/-- FONT (10_state.md R32, R33): 16 glyphs of 5 bytes, glyph d in bytes 5d..5d+4. -/
abbrev Font := Vector (Vector Byte 5) 16

/-- The parameters of 00_scope.md R7 that have more than one value.
STACK_OVERFLOW_POLICY has the one value `fault` (D5), so it is no field. -/
structure Config where
  class0Match    : Class0Match
  stackUnderflow : StackUnderflowPolicy
  keyIndex       : KeyIndexPolicy
  font           : Font
  deriving DecidableEq, Repr

/-- The default FONT, digits 0 to 7 (10_state.md R33). UNVERIFIED, unsafe (log 11): the spec takes the bytes from
general knowledge (GK3). -/
def Config.glyphsLow : Vector (Vector Byte 5) 8 :=
  #v[#v[0xF0, 0x90, 0x90, 0x90, 0xF0], #v[0x20, 0x60, 0x20, 0x20, 0x70],
     #v[0xF0, 0x10, 0xF0, 0x80, 0xF0], #v[0xF0, 0x10, 0xF0, 0x10, 0xF0],
     #v[0x90, 0x90, 0xF0, 0x10, 0x10], #v[0xF0, 0x80, 0xF0, 0x10, 0xF0],
     #v[0xF0, 0x80, 0xF0, 0x90, 0xF0], #v[0xF0, 0x10, 0x20, 0x40, 0x40]]

/-- The default FONT, digits 8 to F (10_state.md R33). -/
def Config.glyphsHigh : Vector (Vector Byte 5) 8 :=
  #v[#v[0xF0, 0x90, 0xF0, 0x90, 0xF0], #v[0xF0, 0x90, 0xF0, 0x10, 0xF0],
     #v[0xF0, 0x90, 0xF0, 0x90, 0x90], #v[0xE0, 0x90, 0xE0, 0x90, 0xE0],
     #v[0xF0, 0x80, 0x80, 0x80, 0xF0], #v[0xE0, 0x90, 0x90, 0x90, 0xE0],
     #v[0xF0, 0x80, 0xF0, 0x80, 0xF0], #v[0xF0, 0x80, 0xF0, 0x80, 0x80]]

/-- The defaults of 00_scope.md R7: the machine that `exec` and `step` are. -/
def Config.default : Config where
  class0Match    := .lowByte
  stackUnderflow := .clamp
  keyIndex       := .fault
  font           := Config.glyphsLow ++ Config.glyphsHigh

/-- MEM_SIZE (00_scope.md R7, D1). -/
abbrev Config.memSize : Nat := 4096

/-- FONT_SIZE: the font occupies addresses 0x000..0x04F (00_scope.md R7). -/
abbrev Config.fontSize : Nat := 80

/-- PROGRAM_START: the reset value of pc and the address a ROM is loaded at (00_scope.md R7). -/
abbrev Config.programStart : Nat := 0x200

/-- MAX_ROM (00_scope.md R7). -/
abbrev Config.maxRom : Nat := 3584

/-- The random-byte input (10_state.md R37, D18): the k-th byte RND takes. A FREE VALUE, safe (log 2): it has no
body, so nothing can be proved of a byte's value. -/
opaque Config.randomByte : Nat → Byte

end Sys2Proof
end

