-- ==== Sys2Proof/Syntax.lean ====
section
/-! DEFINITION. The instructions: one constructor for each row of spec/opcode_table.json (30_encoding.md R83), with the
operand fields of 00_scope.md R12. Register indices and the row count are `Index`, immediates are bit vectors. -/

namespace Sys2Proof

/-- The 35 instructions, in the order of the opcode map (30_encoding.md R83). -/
inductive Instr where
  /-- `0nnn` SYS nnn (R100). -/
  | sys (nnn : Addr12)
  /-- `00E0` CLS (R140). -/
  | cls
  /-- `00EE` RET (R101). -/
  | ret
  /-- `1nnn` JP nnn (R102). -/
  | jp (nnn : Addr12)
  /-- `2nnn` CALL nnn (R103). -/
  | call (nnn : Addr12)
  /-- `3xkk` SE Vx, kk (R104). -/
  | seImm (x : Index) (kk : Byte)
  /-- `4xkk` SNE Vx, kk (R105). -/
  | sneImm (x : Index) (kk : Byte)
  /-- `5xy_` SE Vx, Vy (R106). -/
  | seReg (x y : Index)
  /-- `6xkk` LD Vx, kk (R120). -/
  | ldImm (x : Index) (kk : Byte)
  /-- `7xkk` ADD Vx, kk (R121). -/
  | addImm (x : Index) (kk : Byte)
  /-- `8xy0` LD Vx, Vy (R122). -/
  | ldReg (x y : Index)
  /-- `8xy1` OR Vx, Vy (R123). -/
  | or (x y : Index)
  /-- `8xy2` AND Vx, Vy (R124). -/
  | and (x y : Index)
  /-- `8xy3` XOR Vx, Vy (R125). -/
  | xor (x y : Index)
  /-- `8xy4` ADD Vx, Vy (R126). -/
  | addReg (x y : Index)
  /-- `8xy5` SUB Vx, Vy (R127). -/
  | sub (x y : Index)
  /-- `8xy6` SHR Vx, Vy: y is encoded and not read (R128). -/
  | shr (x y : Index)
  /-- `8xy7` SUBN Vx, Vy (R129). -/
  | subn (x y : Index)
  /-- `8xyE` SHL Vx, Vy: y is encoded and not read (R130). -/
  | shl (x y : Index)
  /-- `9xy_` SNE Vx, Vy (R107). -/
  | sneReg (x y : Index)
  /-- `Annn` LD I, nnn (R180). -/
  | ldI (nnn : Addr12)
  /-- `Bnnn` JP V0, nnn (R108). -/
  | jpV0 (nnn : Addr12)
  /-- `Cxkk` RND Vx, kk (R131). -/
  | rnd (x : Index) (kk : Byte)
  /-- `Dxyn` DRW Vx, Vy, n (R141). -/
  | drw (x y n : Index)
  /-- `Ex9E` SKP Vx (R160). -/
  | skp (x : Index)
  /-- `ExA1` SKNP Vx (R161). -/
  | sknp (x : Index)
  /-- `Fx07` LD Vx, DT (R163). -/
  | ldVxDt (x : Index)
  /-- `Fx0A` LD Vx, K (R162). -/
  | ldK (x : Index)
  /-- `Fx15` LD DT, Vx (R164). -/
  | ldDtVx (x : Index)
  /-- `Fx18` LD ST, Vx (R165). -/
  | ldStVx (x : Index)
  /-- `Fx1E` ADD I, Vx (R181). -/
  | addI (x : Index)
  /-- `Fx29` LD F, Vx (R182). -/
  | ldF (x : Index)
  /-- `Fx33` LD B, Vx (R183). -/
  | ldB (x : Index)
  /-- `Fx55` LD [I], Vx (R184). -/
  | ldStore (x : Index)
  /-- `Fx65` LD Vx, [I] (R185). -/
  | ldLoad (x : Index)
  deriving DecidableEq, Repr

end Sys2Proof
end

