-- ==== Sys2Proof/WellFormed.lean ====
section
/-! DEFINITION. Well-formed instructions: those some word decodes to. Every field value of every row is legal (30_encoding.md
R82), so the one check is on SYS: a class-0 word that is CLS or RET is not SYS (30_encoding.md R76). -/

namespace Sys2Proof

/-- The check on SYS nnn: the word 0nnn must not be CLS or RET under CLASS0_MATCH (30_encoding.md R76). -/
def sysOperandOk (m : Class0Match) (nnn : Addr12) : Bool :=
  match m with
  | .lowByte  => nnn.setWidth 8 != 0xE0#8 && nnn.setWidth 8 != 0xEE#8
  | .fullWord => nnn != 0x0E0#12 && nnn != 0x0EE#12

/-- Well-formedness under a setting of CLASS0_MATCH. -/
def Instr.wellFormedUnder (m : Class0Match) : Instr → Bool
  | .sys nnn => sysOperandOk m nnn
  | .cls | .ret | .jp _ | .call _ | .seImm _ _ | .sneImm _ _ | .seReg _ _ | .sneReg _ _ => true
  | .ldImm _ _ | .addImm _ _ | .ldReg _ _ | .or _ _ | .and _ _ | .xor _ _ => true
  | .addReg _ _ | .sub _ _ | .shr _ _ | .subn _ _ | .shl _ _ | .rnd _ _ => true
  | .ldI _ | .jpV0 _ | .drw _ _ _ | .skp _ | .sknp _ | .ldVxDt _ | .ldK _ => true
  | .ldDtVx _ | .ldStVx _ | .addI _ | .ldF _ | .ldB _ | .ldStore _ | .ldLoad _ => true

/-- Well-formedness under the default CLASS0_MATCH, that of `decode`. -/
def Instr.wellFormed (i : Instr) : Bool := i.wellFormedUnder Config.default.class0Match

end Sys2Proof
end

