-- ==== Sys2Proof/Decode.lean ====
section
/-! DEFINITION. Decoding a word (30_encoding.md R70 to R83), total, rejecting unknown words by name, and the encoder from the
same tables. Every concrete bit pattern is UNVERIFIED, unsafe (log 25): the spec supplies it from general knowledge (GK1, GK2). -/

namespace Sys2Proof

/-! The fields of 00_scope.md R12. -/

/-- c = w[15:12], the opcode class. -/
def fieldC (w : Word) : Nat := (w.extractLsb' 12 4).toNat

/-- x = w[11:8]. -/
def fieldX (w : Word) : Index := (w.extractLsb' 8 4).toFin

/-- y = w[7:4]. -/
def fieldY (w : Word) : Index := (w.extractLsb' 4 4).toFin

/-- n = w[3:0]. -/
def fieldN (w : Word) : Index := (w.extractLsb' 0 4).toFin

/-- kk = w[7:0]. -/
def fieldKK (w : Word) : Byte := w.extractLsb' 0 8

/-- nnn = w[11:0]. -/
def fieldNNN (w : Word) : Addr12 := w.extractLsb' 0 12

/-- Why the decoder gives no instruction. The first three are the unknown words of 30_encoding.md R81. -/
inductive DecodeError where
  /-- Class 0x8 with a sub-code n that R77 does not list. -/
  | unknownClass8 (n : Nat)
  /-- Class 0xE with a low byte that R78 does not list. -/
  | unknownClassE (kk : Byte)
  /-- Class 0xF with a low byte that R79 does not list. -/
  | unknownClassF (kk : Byte)
  /-- Fewer than the two bytes of an instruction were given (R70); no step meets this. -/
  | truncated
  deriving DecidableEq, Repr

/-- Class 0x0 (30_encoding.md R76). The choice of the sub-field is the parameter CLASS0_MATCH (log 8). -/
def decodeClass0 (m : Class0Match) (w : Word) : Instr :=
  match m with
  | .lowByte =>
    if fieldKK w = 0xE0#8 then .cls else if fieldKK w = 0xEE#8 then .ret else .sys (fieldNNN w)
  | .fullWord =>
    if w = 0x00E0#16 then .cls else if w = 0x00EE#16 then .ret else .sys (fieldNNN w)

/-- Class 0x8, on n (30_encoding.md R77). -/
def decodeClass8 (w : Word) : Except DecodeError Instr :=
  match (fieldN w).val with
  | 0x0 => .ok (.ldReg (fieldX w) (fieldY w))
  | 0x1 => .ok (.or (fieldX w) (fieldY w))
  | 0x2 => .ok (.and (fieldX w) (fieldY w))
  | 0x3 => .ok (.xor (fieldX w) (fieldY w))
  | 0x4 => .ok (.addReg (fieldX w) (fieldY w))
  | 0x5 => .ok (.sub (fieldX w) (fieldY w))
  | 0x6 => .ok (.shr (fieldX w) (fieldY w))
  | 0x7 => .ok (.subn (fieldX w) (fieldY w))
  | 0xE => .ok (.shl (fieldX w) (fieldY w))
  | n   => .error (.unknownClass8 n)

/-- Class 0xE, on kk (30_encoding.md R78). -/
def decodeClassE (w : Word) : Except DecodeError Instr :=
  match (fieldKK w).toNat with
  | 0x9E => .ok (.skp (fieldX w))
  | 0xA1 => .ok (.sknp (fieldX w))
  | _    => .error (.unknownClassE (fieldKK w))

/-- Class 0xF, on kk (30_encoding.md R79). -/
def decodeClassF (w : Word) : Except DecodeError Instr :=
  match (fieldKK w).toNat with
  | 0x07 => .ok (.ldVxDt (fieldX w))
  | 0x0A => .ok (.ldK (fieldX w))
  | 0x15 => .ok (.ldDtVx (fieldX w))
  | 0x18 => .ok (.ldStVx (fieldX w))
  | 0x1E => .ok (.addI (fieldX w))
  | 0x29 => .ok (.ldF (fieldX w))
  | 0x33 => .ok (.ldB (fieldX w))
  | 0x55 => .ok (.ldStore (fieldX w))
  | 0x65 => .ok (.ldLoad (fieldX w))
  | _    => .error (.unknownClassF (fieldKK w))

/-- Decoding a word under a setting of CLASS0_MATCH (30_encoding.md R74, R75, R80). Bits 3–0 of classes 5 and 9 are not
examined (D13, log 23). A class is at most 15, so the last arm is class 0xF. -/
def decodeUnder (m : Class0Match) (w : Word) : Except DecodeError Instr :=
  match fieldC w with
  | 0x0 => .ok (decodeClass0 m w)
  | 0x1 => .ok (.jp (fieldNNN w))
  | 0x2 => .ok (.call (fieldNNN w))
  | 0x3 => .ok (.seImm (fieldX w) (fieldKK w))
  | 0x4 => .ok (.sneImm (fieldX w) (fieldKK w))
  | 0x5 => .ok (.seReg (fieldX w) (fieldY w))
  | 0x6 => .ok (.ldImm (fieldX w) (fieldKK w))
  | 0x7 => .ok (.addImm (fieldX w) (fieldKK w))
  | 0x8 => decodeClass8 w
  | 0x9 => .ok (.sneReg (fieldX w) (fieldY w))
  | 0xA => .ok (.ldI (fieldNNN w))
  | 0xB => .ok (.jpV0 (fieldNNN w))
  | 0xC => .ok (.rnd (fieldX w) (fieldKK w))
  | 0xD => .ok (.drw (fieldX w) (fieldY w) (fieldN w))
  | 0xE => decodeClassE w
  | _   => decodeClassF w

/-- Decoding at the default parameters. -/
def decode (w : Word) : Except DecodeError Instr := decodeUnder Config.default.class0Match w

/-- Two bytes as a word, the byte at the lower address being w[15:8] (20_memory.md R52). -/
def wordOfBytes (hi lo : Byte) : Word := hi ++ lo

/-- w[15:8], the byte at the lower address. -/
def highByte (w : Word) : Byte := w.extractLsb' 8 8

/-- w[7:0], the byte at the higher address. -/
def lowByte (w : Word) : Byte := w.extractLsb' 0 8

/-- Decoding bytes: the instruction at the head and the bytes after it. -/
def decodeBytes : List Byte → Except DecodeError (Instr × List Byte)
  | hi :: lo :: rest =>
    match decode (wordOfBytes hi lo) with
    | .ok i    => .ok (i, rest)
    | .error e => .error e
  | _ => .error .truncated

/-- A row of the opcode table as the word it stands for: the bits above `nbits` are zero. -/
def tableWord (nbits w : Nat) : Word := BitVec.ofNat 16 (w % 2 ^ nbits)

/-- The instruction the decoder reads from an instruction whose bits are `w`, numbered as spec/opcode_table.json
numbers them, laid out high byte first (20_memory.md R52). -/
def decodeTableWord (nbits w : Nat) : Option Instr :=
  match decodeBytes [highByte (tableWord nbits w), lowByte (tableWord nbits w)] with
  | .ok (i, _) => some i
  | .error _   => none

/-! The encoder: the formats of 30_encoding.md R71 and the patterns of R83. Bits that decoding ignores are written 0. -/

/-- A 4-bit field. -/
def nibble (k : Index) : BitVec 4 := BitVec.ofFin k

/-- Format A: class and nnn. -/
def wordA (c : BitVec 4) (nnn : Addr12) : Word := c ++ nnn

/-- Formats XK and X: class, x, and a byte that is kk or a sub-code. -/
def wordXK (c : BitVec 4) (x : Index) (kk : Byte) : Word := c ++ (nibble x ++ kk)

/-- Formats XY and XYN: class, x, y, and a nibble that is n or a sub-code. -/
def wordXYN (c : BitVec 4) (x y : Index) (n : BitVec 4) : Word := c ++ (nibble x ++ (nibble y ++ n))

/-- The word of an instruction (30_encoding.md R83). -/
def encode : Instr → Word
  | .sys nnn     => wordA 0x0 nnn
  | .cls         => 0x00E0
  | .ret         => 0x00EE
  | .jp nnn      => wordA 0x1 nnn
  | .call nnn    => wordA 0x2 nnn
  | .seImm x kk  => wordXK 0x3 x kk
  | .sneImm x kk => wordXK 0x4 x kk
  | .seReg x y   => wordXYN 0x5 x y 0x0
  | .ldImm x kk  => wordXK 0x6 x kk
  | .addImm x kk => wordXK 0x7 x kk
  | .ldReg x y   => wordXYN 0x8 x y 0x0
  | .or x y      => wordXYN 0x8 x y 0x1
  | .and x y     => wordXYN 0x8 x y 0x2
  | .xor x y     => wordXYN 0x8 x y 0x3
  | .addReg x y  => wordXYN 0x8 x y 0x4
  | .sub x y     => wordXYN 0x8 x y 0x5
  | .shr x y     => wordXYN 0x8 x y 0x6
  | .subn x y    => wordXYN 0x8 x y 0x7
  | .shl x y     => wordXYN 0x8 x y 0xE
  | .sneReg x y  => wordXYN 0x9 x y 0x0
  | .ldI nnn     => wordA 0xA nnn
  | .jpV0 nnn    => wordA 0xB nnn
  | .rnd x kk    => wordXK 0xC x kk
  | .drw x y n   => wordXYN 0xD x y (nibble n)
  | .skp x       => wordXK 0xE x 0x9E
  | .sknp x      => wordXK 0xE x 0xA1
  | .ldVxDt x    => wordXK 0xF x 0x07
  | .ldK x       => wordXK 0xF x 0x0A
  | .ldDtVx x    => wordXK 0xF x 0x15
  | .ldStVx x    => wordXK 0xF x 0x18
  | .addI x      => wordXK 0xF x 0x1E
  | .ldF x       => wordXK 0xF x 0x29
  | .ldB x       => wordXK 0xF x 0x33
  | .ldStore x   => wordXK 0xF x 0x55
  | .ldLoad x    => wordXK 0xF x 0x65

/-- The bytes of an instruction in memory, lowest address first (20_memory.md R52). -/
def encodeBytes (i : Instr) : List Byte := [highByte (encode i), lowByte (encode i)]

/-- The bits of a word that decoding examines once it has taken it for `i`: the fixed bits and the fields of its row
(30_encoding.md R76, R80, R83, R84). Under `fullWord` CLS and RET examine every bit. -/
def examinedBits (m : Class0Match) : Instr → Word
  | .cls | .ret => match m with | .lowByte => 0xF0FF | .fullWord => 0xFFFF
  | .seReg _ _ | .sneReg _ _ => 0xFFF0
  | .sys _ | .jp _ | .call _ | .ldI _ | .jpV0 _ => 0xFFFF
  | .seImm _ _ | .sneImm _ _ | .ldImm _ _ | .addImm _ _ | .rnd _ _ => 0xFFFF
  | .ldReg _ _ | .or _ _ | .and _ _ | .xor _ _ | .addReg _ _ => 0xFFFF
  | .sub _ _ | .shr _ _ | .subn _ _ | .shl _ _ | .drw _ _ _ => 0xFFFF
  | .skp _ | .sknp _ | .ldVxDt _ | .ldK _ | .ldDtVx _ | .ldStVx _ => 0xFFFF
  | .addI _ | .ldF _ | .ldB _ | .ldStore _ | .ldLoad _ => 0xFFFF

/-- A row of the opcode map: `w &&& mask = pattern` selects it (30_encoding.md R83). -/
structure OpcodeRow where
  mnemonic : String
  pattern  : Word
  mask     : Word
  deriving DecidableEq, Repr

/-- The row of an instruction (30_encoding.md R83, with the masks of the default CLASS0_MATCH). -/
def opcodeRow : Instr → OpcodeRow
  | .sys _      => ⟨"SYS", 0x0000, 0xF000⟩
  | .cls        => ⟨"CLS", 0x00E0, 0xF0FF⟩
  | .ret        => ⟨"RET", 0x00EE, 0xF0FF⟩
  | .jp _       => ⟨"JP", 0x1000, 0xF000⟩
  | .call _     => ⟨"CALL", 0x2000, 0xF000⟩
  | .seImm _ _  => ⟨"SE_imm", 0x3000, 0xF000⟩
  | .sneImm _ _ => ⟨"SNE_imm", 0x4000, 0xF000⟩
  | .seReg _ _  => ⟨"SE_reg", 0x5000, 0xF000⟩
  | .ldImm _ _  => ⟨"LD_imm", 0x6000, 0xF000⟩
  | .addImm _ _ => ⟨"ADD_imm", 0x7000, 0xF000⟩
  | .ldReg _ _  => ⟨"LD_reg", 0x8000, 0xF00F⟩
  | .or _ _     => ⟨"OR", 0x8001, 0xF00F⟩
  | .and _ _    => ⟨"AND", 0x8002, 0xF00F⟩
  | .xor _ _    => ⟨"XOR", 0x8003, 0xF00F⟩
  | .addReg _ _ => ⟨"ADD_reg", 0x8004, 0xF00F⟩
  | .sub _ _    => ⟨"SUB", 0x8005, 0xF00F⟩
  | .shr _ _    => ⟨"SHR", 0x8006, 0xF00F⟩
  | .subn _ _   => ⟨"SUBN", 0x8007, 0xF00F⟩
  | .shl _ _    => ⟨"SHL", 0x800E, 0xF00F⟩
  | .sneReg _ _ => ⟨"SNE_reg", 0x9000, 0xF000⟩
  | .ldI _      => ⟨"LD_I", 0xA000, 0xF000⟩
  | .jpV0 _     => ⟨"JP_V0", 0xB000, 0xF000⟩
  | .rnd _ _    => ⟨"RND", 0xC000, 0xF000⟩
  | .drw _ _ _  => ⟨"DRW", 0xD000, 0xF000⟩
  | .skp _      => ⟨"SKP", 0xE09E, 0xF0FF⟩
  | .sknp _     => ⟨"SKNP", 0xE0A1, 0xF0FF⟩
  | .ldVxDt _   => ⟨"LD_Vx_DT", 0xF007, 0xF0FF⟩
  | .ldK _      => ⟨"LD_K", 0xF00A, 0xF0FF⟩
  | .ldDtVx _   => ⟨"LD_DT_Vx", 0xF015, 0xF0FF⟩
  | .ldStVx _   => ⟨"LD_ST_Vx", 0xF018, 0xF0FF⟩
  | .addI _     => ⟨"ADD_I", 0xF01E, 0xF0FF⟩
  | .ldF _      => ⟨"LD_F", 0xF029, 0xF0FF⟩
  | .ldB _      => ⟨"LD_B", 0xF033, 0xF0FF⟩
  | .ldStore _  => ⟨"LD_store", 0xF055, 0xF0FF⟩
  | .ldLoad _   => ⟨"LD_load", 0xF065, 0xF0FF⟩

end Sys2Proof
end

