-- ==== Sys2Proof/Machine/Memory.lean ====
section
/-! DEFINITION. The 4096 bytes of memory (10_state.md R31, 20_memory.md R50 to R66) as a list of (address, byte) pairs in
one canonical form: addresses strictly rising and below 4096, and no entry equal to what an unlisted address reads as. -/

namespace Sys2Proof.Machine

/-- Memory: the bytes that differ from their reset contents. -/
abbrev Memory := List Host.Cell

/-- The reset contents of memory under a FONT (10_state.md R32, R41): the font at 0x000..0x04F, zero elsewhere. -/
def fontByte (font : Font) (a : Nat) : Byte :=
  if h : a < Config.fontSize then
    (font[a / 5]'(by simp only [Config.fontSize] at h; omega))[a % 5]'(Nat.mod_lt _ (by decide))
  else 0

/-- What an unlisted address reads as: its reset content at the default FONT (10_state.md R33, R41). -/
def resetByte (a : Nat) : Byte := fontByte Config.default.font a

/-- The byte of the first entry for an address, else the reset content. -/
def Memory.lookup : Memory → Nat → Byte
  | [], a => resetByte a
  | (k, b) :: rest, a => if k = a then b else Memory.lookup rest a

/-- The entries for other addresses. -/
def Memory.erase (m : Memory) (a : Nat) : Memory := m.filter (fun c => c.1 != a)

/-- An entry put before the first entry with a greater address. -/
def Memory.insertCell : Memory → Nat → Byte → Memory
  | [], a, b => [(a, b)]
  | (k, c) :: rest, a, b =>
    if a < k then (a, b) :: (k, c) :: rest else (k, c) :: Memory.insertCell rest a b

/-- `MemRead(a, 1)`: the byte at `a mod MEM_SIZE` (00_scope.md R10). -/
def Memory.read (m : Memory) (a : Nat) : Byte := m.lookup (a % Config.memSize)

/-- `MemWrite(a, 1, b)`: writes the byte at `a mod MEM_SIZE` (00_scope.md R10). Writing the reset content removes
the entry. -/
def Memory.write (m : Memory) (a : Nat) (b : Byte) : Memory :=
  if b = resetByte (a % Config.memSize) then m.erase (a % Config.memSize)
  else (m.erase (a % Config.memSize)).insertCell (a % Config.memSize) b

/-- Bytes written one after another from an address up (20_memory.md R66). -/
def Memory.writeBytes : Memory → Nat → List Byte → Memory
  | m, _, [] => m
  | m, a, b :: rest => Memory.writeBytes (m.write a b) (a + 1) rest

/-- The canonical form. -/
def Memory.wf (m : Memory) : Bool :=
  decide (m.Pairwise (fun c d => c.1 < d.1)) &&
    m.all (fun c => decide (c.1 < Config.memSize) && c.2 != resetByte c.1)

/-- The font of a FONT parameter as the 80 bytes of memory it fills. -/
def fontBytes (font : Font) : List Byte := (List.range Config.fontSize).map (fontByte font)

end Sys2Proof.Machine
end

