-- ==== Sys2Proof/Machine/State.lean ====
section
/-! DEFINITION. The state of the block (10_state.md R20), as plain data, its value after reset (R41), and the reasons a step can
stop. -/

namespace Sys2Proof.Machine

/-- The fault kinds (60_exceptions.md R202). A fault does not end the machine's run here: `State.fault` takes the kind in a
NEXT state and later steps do nothing (R203), so no step answers `Host.Outcome.fault` (log 1, DEDUCED, safe). -/
inductive Fault where
  /-- Code 1, raised by CALL at SP = 16 (40_control_flow.md R103). Safe: the block stops where the source leaves the
  behaviour undefined (D5). -/
  | stackOverflow
  /-- Code 2, raised by RET at SP = 0, only under STACK_UNDERFLOW_POLICY = fault (40_control_flow.md R101). Safe: the
  block stops. -/
  | stackUnderflow
  /-- Code 3, raised by SKP and SKNP at V[x] ≥ 16 under KEY_INDEX_POLICY = fault (43_keys_timers.md R166). Safe: the
  block stops where the source gives no behaviour (D14). -/
  | keyIndexOutOfRange
  deriving DecidableEq, Repr

/-- Why a step would have no meaning. No arm of `exec` answers a refusal: every instruction has its effect. -/
inductive Refusal where
  /-- An instruction that has no meaning yet, by its mnemonic; raised by no instruction of this model. Safe. -/
  | notModelled (mnemonic : String)
  deriving DecidableEq, Repr

/-- The framebuffer: 32 rows of 64 pixels, `fb[row][col]`, true is ON (10_state.md R34). -/
abbrev Framebuffer := Vector (Vector Bool 64) 32

/-- All pixels OFF. -/
def Framebuffer.clear : Framebuffer := Vector.replicate 32 (Vector.replicate 64 false)

/-- The state of the block (10_state.md R20). -/
structure State where
  /-- V[0..15], 8 bits each; V[0xF] is VF (R21, R22). -/
  v     : Vector Byte 16
  /-- I, the address register (R24). -/
  i     : Word
  /-- The program counter, kept as 16 bits (R25). -/
  pc    : Word
  /-- The return-address stack (R27). -/
  stack : Vector Word 16
  /-- SP, the number of entries in use, 0..16 (R28). -/
  sp    : Fin 17
  /-- DT, the delay timer (R29). -/
  dt    : Byte
  /-- ST, the sound timer (R30). -/
  st    : Byte
  /-- The 4096 bytes of memory (R31). -/
  mem   : Memory
  /-- The framebuffer (R34). -/
  fb    : Framebuffer
  /-- The key-state flags, true is pressed (R35). -/
  key   : Vector Bool 16
  /-- The fault status: none, or the kind the block stopped on (R38). -/
  fault : Option Fault
  /-- THE MODEL'S OWN field: how many random bytes have been taken, so that each RND takes its own free value (R37;
  log 2). -/
  draws : Nat
  deriving DecidableEq, Repr

/-- The state right after reset and before the load (10_state.md R41). `draws` is 0: DESIGN CHOICE, unsafe if a
statement rested on it; none does (log 2). -/
def State.reset : State where
  v     := Vector.replicate 16 0
  i     := 0
  pc    := BitVec.ofNat 16 Config.programStart
  stack := Vector.replicate 16 0
  sp    := 0
  dt    := 0
  st    := 0
  mem   := []
  fb    := Framebuffer.clear
  key   := Vector.replicate 16 false
  fault := none
  draws := 0

end Sys2Proof.Machine
end

