-- ==== Sys2Proof/Machine/Ops.lean ====
section
/-! DEFINITION. The named operations over registers, memory and pc that every meaning is written with
(00_scope.md R9 to R11), and raising a fault (60_exceptions.md R203). -/

namespace Sys2Proof.Machine

/-! Registers. -/

/-- `V[x]` (00_scope.md R9). -/
def State.reg (s : State) (x : Index) : Byte := s.v[x.val]

/-- `V[x] <- b`: no register is hardwired (10_state.md R21). -/
def State.setReg (s : State) (x : Index) (b : Byte) : State := { s with v := s.v.set x.val b }

/-- The index of VF (10_state.md R22). -/
abbrev vf : Index := 0xF

/-- `I <- a`, all 16 bits (10_state.md R24). -/
def State.setI (s : State) (a : Word) : State := { s with i := a }

/-- `pc <- target`, all 16 bits (10_state.md R25). -/
def State.setPc (s : State) (target : Word) : State := { s with pc := target }

/-- `stack[k]` (10_state.md R27). -/
def State.stackEntry (s : State) (k : Index) : Word := s.stack[k.val]

/-! Memory. -/

/-- `Mask(a) = a mod MEM_SIZE`, the byte address that an address value names (00_scope.md R10, 20_memory.md R51). -/
def mask (a : Word) : Nat := a.toNat % Config.memSize

/-- `MemRead(a, 1)` (00_scope.md R10). -/
def State.memRead (s : State) (a : Word) : Byte := s.mem.read a.toNat

/-- `MemWrite(a, 1, b)` (00_scope.md R10). -/
def State.memWrite (s : State) (a : Word) (b : Byte) : State := { s with mem := s.mem.write a.toNat b }

/-! Fetch and pc (30_encoding.md R72, R73). -/

/-- The word at an address, high byte first; `a + 1` is a 16-bit sum (20_memory.md R52, 30_encoding.md R72). -/
def State.wordAt (s : State) (a : Word) : Word := wordOfBytes (s.memRead a) (s.memRead (a + 1))

/-- The word the next step fetches (30_encoding.md R72). -/
def State.fetchWord (s : State) : Word := s.wordAt s.pc

/-- The pre-advance `pc <- pc_fetch + 2` (mod 2^16), before dispatch (30_encoding.md R73). -/
def State.advance (s : State) : State := s.setPc (s.pc + 2)

/-- A skip adds 2 to the pre-advanced pc when its condition holds; the skipped word is not examined
(40_control_flow.md R109). -/
def State.skipIf (s : State) (c : Bool) : State := if c then s.setPc (s.pc + 2) else s

/-! Faults. There is no return from a fault: only the reset transaction clears it (60_exceptions.md R206, R215). -/

/-- `raise Fault(kind)`: the state changes made so far stay, the fault status takes the kind, and the step ends
(00_scope.md R11, 60_exceptions.md R203). A NEXT state: the block is stopped in it (log 1). -/
def raiseFault (kind : Fault) (s : State) : Host.Outcome State Fault Refusal :=
  .next { s with fault := some kind }

/-- The code of the fault status output (60_exceptions.md R202). -/
def State.faultCode (s : State) : Nat :=
  match s.fault with
  | none => 0
  | some .stackOverflow => 1
  | some .stackUnderflow => 2
  | some .keyIndexOutOfRange => 3

end Sys2Proof.Machine
end

