-- ==== Sys2Proof/Machine/Flags.lean ====
section
/-! DEFINITION. The values of VF as a flag (10_state.md R40) and the order in which a result and the flag are written
(41_alu.md R133). All comparisons are unsigned (41_alu.md R132). -/

namespace Sys2Proof.Machine

/-- A Boolean as the number 1 or 0 (00_scope.md R8). -/
def flagByte (c : Bool) : Byte := if c then 1 else 0

/-- The carry of an addition: the exact sum exceeds 255 (41_alu.md R126). -/
def carryOut (a b : Byte) : Bool := decide (a.toNat + b.toNat > 255)

/-- No borrow in `a - b`: a ≥ b (41_alu.md R127, R129). -/
def noBorrow (a b : Byte) : Bool := decide (a.toNat ≥ b.toNat)

/-- The bit a right shift by one moves out, bit 0 (41_alu.md R128). -/
def shiftedOutRight (a : Byte) : Bool := a.getLsbD 0

/-- The bit a left shift by one moves out, bit 7 (41_alu.md R130). -/
def shiftedOutLeft (a : Byte) : Bool := a.getLsbD 7

/-- The result goes to V[x], then the flag to VF, so that VF holds the flag when x = 0xF (41_alu.md R133).
UNVERIFIED, unsafe (log 16): the order is the spec's decision D7. -/
def State.setResultThenFlag (s : State) (x : Index) (result : Byte) (flag : Bool) : State :=
  (s.setReg x result).setReg vf (flagByte flag)

end Sys2Proof.Machine
end

