-- ==== Sys2Proof/Machine/Alu.lean ====
section
/-! DEFINITION. Register and ALU instructions (41_alu.md R120 to R133): unsigned 8-bit values, results mod 256. -/

namespace Sys2Proof.Machine

/-- LD Vx, kk (R120). -/
def execLdImm (x : Index) (kk : Byte) (s : State) : Host.Outcome State Fault Refusal := .next (s.setReg x kk)

/-- ADD Vx, kk (R121): no carry flag. -/
def execAddImm (x : Index) (kk : Byte) (s : State) : Host.Outcome State Fault Refusal :=
  .next (s.setReg x (s.reg x + kk))

/-- LD Vx, Vy (R122). -/
def execLdReg (x y : Index) (s : State) : Host.Outcome State Fault Refusal := .next (s.setReg x (s.reg y))

/-- OR Vx, Vy (R123): no flag. -/
def execOr (x y : Index) (s : State) : Host.Outcome State Fault Refusal :=
  .next (s.setReg x (s.reg x ||| s.reg y))

/-- AND Vx, Vy (R124): no flag. -/
def execAnd (x y : Index) (s : State) : Host.Outcome State Fault Refusal :=
  .next (s.setReg x (s.reg x &&& s.reg y))

/-- XOR Vx, Vy (R125): no flag. -/
def execXor (x y : Index) (s : State) : Host.Outcome State Fault Refusal :=
  .next (s.setReg x (s.reg x ^^^ s.reg y))

/-- ADD Vx, Vy (R126): VF is the carry. -/
def execAddReg (x y : Index) (s : State) : Host.Outcome State Fault Refusal :=
  .next (s.setResultThenFlag x (s.reg x + s.reg y) (carryOut (s.reg x) (s.reg y)))

/-- SUB Vx, Vy (R127): VF is V[x] ≥ V[y]. -/
def execSub (x y : Index) (s : State) : Host.Outcome State Fault Refusal :=
  .next (s.setResultThenFlag x (s.reg x - s.reg y) (noBorrow (s.reg x) (s.reg y)))

/-- SHR Vx (R128): y is not read. -/
def execShr (x _y : Index) (s : State) : Host.Outcome State Fault Refusal :=
  .next (s.setResultThenFlag x (s.reg x >>> 1) (shiftedOutRight (s.reg x)))

/-- SUBN Vx, Vy (R129): V[y] - V[x], VF is V[y] ≥ V[x]. UNVERIFIED, unsafe (log 17): formula from general knowledge
(GK7), flag test D8. -/
def execSubn (x y : Index) (s : State) : Host.Outcome State Fault Refusal :=
  .next (s.setResultThenFlag x (s.reg y - s.reg x) (noBorrow (s.reg y) (s.reg x)))

/-- SHL Vx (R130): y is not read. -/
def execShl (x _y : Index) (s : State) : Host.Outcome State Fault Refusal :=
  .next (s.setResultThenFlag x (s.reg x <<< 1) (shiftedOutLeft (s.reg x)))

/-- RND Vx, kk when the random source gives the byte r (R131): one byte is consumed, whatever kk is. -/
def rndWith (r : Byte) (x : Index) (kk : Byte) (s : State) : Host.Outcome State Fault Refusal :=
  .next { s.setReg x (r &&& kk) with draws := s.draws + 1 }

/-- RND Vx, kk (R131): the byte is the next free value (10_state.md R37; log 2). -/
def execRnd (x : Index) (kk : Byte) (s : State) : Host.Outcome State Fault Refusal :=
  rndWith (Config.randomByte s.draws) x kk s

end Sys2Proof.Machine
end

