-- ==== Sys2Proof/Machine/Operands.lean ====
section
/-! DEFINITION. Operand forms: the one data addressing mode (44_index_memory.md R186), the bulk copies through it, immediates
(30_encoding.md R82), and the key a register names (43_keys_timers.md R166). -/

namespace Sys2Proof.Machine

/-- `zext_16(nnn)` (30_encoding.md R82). -/
def addrOf (nnn : Addr12) : Word := nnn.setWidth 16

/-- `zext_16(v)` of a byte (00_scope.md R8). -/
def wordOf (b : Byte) : Word := b.setWidth 16

/-- `I + k`, a 16-bit sum, reduced by Mask at the access (44_index_memory.md R186). -/
def State.effAddr (s : State) (k : Nat) : Word := s.i + BitVec.ofNat 16 k

/-- The bytes at `I`, `I + 1`, .. `I + n - 1` (42_display.md R141). -/
def State.bytesAtI (s : State) (n : Nat) : List Byte := (List.range n).map (fun k => s.memRead (s.effAddr k))

/-- `for k in 0 .. n-1: MemWrite(I + k, 1, V[k])`, increasing k (44_index_memory.md R184). -/
def State.storeRegs (s : State) : Nat → State
  | 0 => s
  | k + 1 =>
    let t := s.storeRegs k
    t.memWrite (t.effAddr k) (t.reg (Fin.ofNat 16 k))

/-- `for k in 0 .. n-1: V[k] <- MemRead(I + k, 1)`, increasing k (44_index_memory.md R185). -/
def State.loadRegs (s : State) : Nat → State
  | 0 => s
  | k + 1 =>
    let t := s.loadRegs k
    t.setReg (Fin.ofNat 16 k) (t.memRead (t.effAddr k))

/-- `KeyPressed(k)` (00_scope.md R11). -/
def State.keyPressed (s : State) (k : Index) : Bool := s.key[k.val]

/-- The key state that a register value names under KEY_INDEX_POLICY: none where the policy raises
KeyIndexOutOfRange (43_keys_timers.md R166). -/
def State.keyState (s : State) (policy : KeyIndexPolicy) (v : Byte) : Option Bool :=
  if h : v.toNat < 16 then some (s.keyPressed ⟨v.toNat, h⟩)
  else
    match policy with
    | .fault      => none
    | .lowNibble  => some (s.keyPressed (Fin.ofNat 16 v.toNat))
    | .notPressed => some false

/-- The smallest k with `KeyPressed(k)`, if any key is held (43_keys_timers.md R162). UNVERIFIED, unsafe (log 21): lowest
index and level sensitivity are the spec's decision D15. -/
def State.lowestKey (s : State) : Option Index := (List.finRange 16).find? s.keyPressed

/-- The decimal digits of a byte, most significant first (44_index_memory.md R183). -/
def decimalDigits (v : Byte) : Byte × Byte × Byte :=
  (BitVec.ofNat 8 (v.toNat / 100), BitVec.ofNat 8 (v.toNat / 10 % 10), BitVec.ofNat 8 (v.toNat % 10))

end Sys2Proof.Machine
end

