-- ==== Sys2Proof/Machine/ControlFlow.lean ====
section
/-! DEFINITION. Control flow (40_control_flow.md R100 to R110) and the unknown words (30_encoding.md R81). Every meaning takes
the state after the pre-advance: pc is pc_fetch + 2 (00_scope.md R13). -/

namespace Sys2Proof.Machine

/-- An unknown word: nothing beyond the pre-advance (30_encoding.md R81). -/
def execUnknown (_ : DecodeError) (s : State) : Host.Outcome State Fault Refusal := .next s

/-- SYS nnn (R100): a no-op. UNVERIFIED, safe in this configuration (log 19): the spec's decision D11. -/
def execSys (_ : Addr12) (s : State) : Host.Outcome State Fault Refusal := .next s

/-- Push pc and transfer to a target, or StackOverflow at SP = 16 (R103, 10_state.md R28). -/
def pushAndJump (target : Word) (s : State) : Host.Outcome State Fault Refusal :=
  if h : s.sp.val < 16 then
    .next { s with stack := s.stack.set s.sp.val s.pc, sp := ⟨s.sp.val + 1, by omega⟩, pc := target }
  else raiseFault .stackOverflow s

/-- Pop into pc; with an empty stack, what STACK_UNDERFLOW_POLICY says (R101, 10_state.md R28). -/
def popIntoPc (policy : StackUnderflowPolicy) (s : State) : Host.Outcome State Fault Refusal :=
  if h : s.sp.val = 0 then
    match policy with
    | .clamp => .next (s.setPc s.stack[0])
    | .fault => raiseFault .stackUnderflow s
  else
    .next { s with sp := ⟨s.sp.val - 1, by omega⟩, pc := s.stack[s.sp.val - 1]'(by omega) }

/-- RET under a setting of STACK_UNDERFLOW_POLICY (R101). -/
def execRetUnder (policy : StackUnderflowPolicy) (s : State) : Host.Outcome State Fault Refusal :=
  popIntoPc policy s

/-- RET (R101) at the default policy, clamp (log 9). -/
def execRet (s : State) : Host.Outcome State Fault Refusal := execRetUnder Config.default.stackUnderflow s

/-- JP nnn (R102). -/
def execJp (nnn : Addr12) (s : State) : Host.Outcome State Fault Refusal := .next (s.setPc (addrOf nnn))

/-- CALL nnn (R103): pushes pc_fetch + 2. -/
def execCall (nnn : Addr12) (s : State) : Host.Outcome State Fault Refusal := pushAndJump (addrOf nnn) s

/-- SE Vx, kk (R104). -/
def execSeImm (x : Index) (kk : Byte) (s : State) : Host.Outcome State Fault Refusal :=
  .next (s.skipIf (s.reg x == kk))

/-- SNE Vx, kk (R105). -/
def execSneImm (x : Index) (kk : Byte) (s : State) : Host.Outcome State Fault Refusal :=
  .next (s.skipIf (s.reg x != kk))

/-- SE Vx, Vy (R106). -/
def execSeReg (x y : Index) (s : State) : Host.Outcome State Fault Refusal :=
  .next (s.skipIf (s.reg x == s.reg y))

/-- SNE Vx, Vy (R107). -/
def execSneReg (x y : Index) (s : State) : Host.Outcome State Fault Refusal :=
  .next (s.skipIf (s.reg x != s.reg y))

/-- JP V0, nnn (R108): always V0, the sum mod 2^16. UNVERIFIED, unsafe (log 18): general knowledge (D10, GK5). -/
def execJpV0 (nnn : Addr12) (s : State) : Host.Outcome State Fault Refusal :=
  .next (s.setPc (addrOf nnn + wordOf (s.reg 0)))

end Sys2Proof.Machine
end

