-- ==== Sys2Proof/Machine/Display.lean ====
section
/-! DEFINITION. Display instructions (42_display.md R140 to R144): clearing, and the XOR sprite with its start wrapped once and
the pixels past the right or bottom edge clipped (90_conflicts.md C1). -/

namespace Sys2Proof.Machine

/-- Whether a pixel is ON; outside the 32 × 64 grid there is no pixel, which is OFF here. -/
def Framebuffer.pixel (fb : Framebuffer) (row col : Nat) : Bool :=
  if h : row < 32 ∧ col < 64 then (fb[row]'h.1)[col]'h.2 else false

/-- A framebuffer and the collision bit so far. -/
abbrev Drawing := Framebuffer × Bool

/-- Toggle one pixel and note whether it was ON; a pixel outside the grid is clipped (R142, R143). -/
def togglePixel (d : Drawing) (row col : Nat) : Drawing :=
  if h : row < 32 ∧ col < 64 then
    (d.1.set row ((d.1[row]'h.1).set col (!d.1.pixel row col) h.2) h.1, d.2 || d.1.pixel row col)
  else d

/-- Bits b .. 7 of one sprite byte, bit 0 being the most significant, drawn in row `row` from column `cx` (R142). `n` is
how many bits are left. -/
def drawBits (d : Drawing) (row cx : Nat) (byte : Byte) : Nat → Drawing
  | 0 => d
  | n + 1 =>
    let e := drawBits d row cx byte n
    if byte.getLsbD (7 - n) then togglePixel e row (cx + n) else e

/-- The rows of a sprite from row `row` down (R142). -/
def drawRows (d : Drawing) (cx row : Nat) : List Byte → Drawing
  | [] => d
  | byte :: rest => drawRows (drawBits d row cx byte 8) cx (row + 1) rest

/-- `DrawSprite(x0, y0, rows)`: the framebuffer afterwards and the collision bit (R142, R143). DEDUCED, unsafe if R144's last
clause were meant (log 26): that clause contradicts R142 and R143 where a sprite covers ON pixels only, and these are followed. -/
def drawSprite (fb : Framebuffer) (x0 y0 : Byte) (rows : List Byte) : Drawing :=
  drawRows (fb, false) (x0.toNat % 64) (y0.toNat % 32) rows

/-- CLS (R140): VF is not written. -/
def execCls (s : State) : Host.Outcome State Fault Refusal := .next { s with fb := Framebuffer.clear }

/-- DRW Vx, Vy, n (R141): V[x] and V[y] are read before VF is written; I is not changed. -/
def execDrw (x y n : Index) (s : State) : Host.Outcome State Fault Refusal :=
  let d := drawSprite s.fb (s.reg x) (s.reg y) (s.bytesAtI n.val)
  .next ({ s with fb := d.1 }.setReg vf (flagByte d.2))

end Sys2Proof.Machine
end

