-- ==== Sys2Proof/Machine/IndexMemory.lean ====
section
/-! DEFINITION. Address-register and memory instructions (44_index_memory.md R180 to R186). None of LD B, LD [I], LD Vx,[I]
changes I. -/

namespace Sys2Proof.Machine

/-- LD I, nnn (R180). UNVERIFIED, unsafe (log 18): general knowledge (D9, GK4). -/
def execLdI (nnn : Addr12) (s : State) : Host.Outcome State Fault Refusal := .next (s.setI (addrOf nnn))

/-- ADD I, Vx (R181): mod 2^16, VF not written. -/
def execAddI (x : Index) (s : State) : Host.Outcome State Fault Refusal :=
  .next (s.setI (s.i + wordOf (s.reg x)))

/-- LD F, Vx (R182): V[x] is not reduced to a nibble (D16, log 22). -/
def execLdF (x : Index) (s : State) : Host.Outcome State Fault Refusal := .next (s.setI (wordOf (s.reg x) * 5))

/-- LD B, Vx (R183): hundreds, tens, ones at I, I + 1, I + 2, in this order. -/
def execLdB (x : Index) (s : State) : Host.Outcome State Fault Refusal :=
  let d := decimalDigits (s.reg x)
  .next (((s.memWrite (s.effAddr 0) d.1).memWrite (s.effAddr 1) d.2.1).memWrite (s.effAddr 2) d.2.2)

/-- LD [I], Vx (R184): V0..Vx inclusive. -/
def execLdStore (x : Index) (s : State) : Host.Outcome State Fault Refusal := .next (s.storeRegs (x.val + 1))

/-- LD Vx, [I] (R185): V0..Vx inclusive. -/
def execLdLoad (x : Index) (s : State) : Host.Outcome State Fault Refusal := .next (s.loadRegs (x.val + 1))

end Sys2Proof.Machine
end

