-- ==== Sys2Proof/Machine/KeysTimers.lean ====
section
/-! DEFINITION. Key and timer instructions (43_keys_timers.md R160 to R166). -/

namespace Sys2Proof.Machine

/-- SKP Vx under a setting of KEY_INDEX_POLICY (R160, R166). -/
def execSkpUnder (policy : KeyIndexPolicy) (x : Index) (s : State) : Host.Outcome State Fault Refusal :=
  match s.keyState policy (s.reg x) with
  | some pressed => .next (s.skipIf pressed)
  | none         => raiseFault .keyIndexOutOfRange s

/-- SKNP Vx under a setting of KEY_INDEX_POLICY (R161, R166). -/
def execSknpUnder (policy : KeyIndexPolicy) (x : Index) (s : State) : Host.Outcome State Fault Refusal :=
  match s.keyState policy (s.reg x) with
  | some pressed => .next (s.skipIf (!pressed))
  | none         => raiseFault .keyIndexOutOfRange s

/-- SKP Vx (R160) at the default policy, fault (log 10). -/
def execSkp (x : Index) (s : State) : Host.Outcome State Fault Refusal :=
  execSkpUnder Config.default.keyIndex x s

/-- SKNP Vx (R161) at the default policy, fault (log 10). -/
def execSknp (x : Index) (s : State) : Host.Outcome State Fault Refusal :=
  execSknpUnder Config.default.keyIndex x s

/-- LD Vx, K (R162): with no key held pc goes back to pc_fetch, so that the next step fetches the same word; else the
lowest key held goes to V[x]. -/
def execLdK (x : Index) (s : State) : Host.Outcome State Fault Refusal :=
  match s.lowestKey with
  | none   => .next (s.setPc (s.pc - 2))
  | some k => .next (s.setReg x (BitVec.ofNat 8 k.val))

/-- LD Vx, DT (R163). -/
def execLdVxDt (x : Index) (s : State) : Host.Outcome State Fault Refusal := .next (s.setReg x s.dt)

/-- LD DT, Vx (R164). -/
def execLdDtVx (x : Index) (s : State) : Host.Outcome State Fault Refusal := .next { s with dt := s.reg x }

/-- LD ST, Vx (R165). -/
def execLdStVx (x : Index) (s : State) : Host.Outcome State Fault Refusal := .next { s with st := s.reg x }

end Sys2Proof.Machine
end

