-- ==== Sys2Proof/Machine/Step.lean ====
section
/-! DEFINITION. One step transaction (60_exceptions.md R217), and an instruction placed where the next step fetches. -/

namespace Sys2Proof.Machine

/-- `step()`: nothing when the block is faulted; else fetch, pre-advance, decode and execute (60_exceptions.md R217,
30_encoding.md R72 to R81). An unknown word is a no-op. -/
def step (s : State) : Host.Outcome State Fault Refusal :=
  match s.fault with
  | some _ => .next s
  | none =>
    match decode s.fetchWord with
    | .ok i    => exec i s.advance
    | .error e => execUnknown e s.advance

/-- The state with a row of the opcode table stored at pc, high byte first, where the next step fetches. The fetch
also needs `fault = none` (30_encoding.md R72), so the fault status is cleared (log 6, DESIGN CHOICE, safe). -/
def State.withFetchWord (s : State) (nbits w : Nat) : State :=
  { (s.memWrite s.pc (highByte (tableWord nbits w))).memWrite (s.pc + 1) (lowByte (tableWord nbits w)) with
    fault := none }

end Sys2Proof.Machine
end

