-- ==== Sys2Proof/Machine/Transactions.lean ====
section
/-! DEFINITION. The host's transactions and the block's outputs (60_exceptions.md R215 to R222, R226). Each is atomic, and the
host performs them one at a time in an order of its own choice (R221), so a session is a list of them. -/

namespace Sys2Proof.Machine

/-- `reset`: every piece of state at its reset value (R215, 10_state.md R41). The random source is an input, not state, and is
not rewound: `draws` stays (log 3, DEDUCED, safe). -/
def State.resetBlock (s : State) : State := { State.reset with draws := s.draws }

/-- Whether a ROM fits, `L <= 3584` (20_memory.md R66). -/
def romFits (rom : List Byte) : Bool := decide (rom.length ≤ Config.maxRom)

/-- `load(rom)`: the bytes go to 0x200 + j; a ROM that does not fit changes nothing (R216, 20_memory.md R66). -/
def State.load (s : State) (rom : List Byte) : State :=
  if romFits rom then { s with mem := s.mem.writeBytes Config.programStart rom } else s

/-- One timer's tick: down by 1, floored at 0 (R209, R210). -/
def countDown (b : Byte) : Byte := if b.toNat > 0 then b - 1 else b

/-- `tick()`: both timers at once, faulted or not (R218). -/
def State.tick (s : State) : State := { s with dt := countDown s.dt, st := countDown s.st }

/-- `set_key(k, pressed)`; a k outside 0..15 changes nothing (R219). -/
def State.setKey (s : State) (k : Nat) (pressed : Bool) : State :=
  if h : k < 16 then { s with key := s.key.set k pressed h } else s

/-- `snapshot()` (R220). -/
def State.snapshot (s : State) : Framebuffer := s.fb

/-- The output sound_active (R211). -/
def State.soundActive (s : State) : Bool := s.st != 0

/-- The host's transactions (R226). -/
inductive Transaction where
  | reset
  | load (rom : List Byte)
  | step
  | tick
  | setKey (k : Nat) (pressed : Bool)
  | snapshot
  deriving DecidableEq, Repr

/-- What a transaction returns to the host (R226). -/
inductive Reply where
  /-- Nothing is returned. -/
  | done
  /-- The load was made. -/
  | loadOk
  /-- The ROM exceeds the remaining capacity (R216). -/
  | loadError
  /-- The interface refuses a key outside 0..15 (R219). -/
  | keyRefused
  /-- The framebuffer (R220). -/
  | screen (fb : Framebuffer)
  deriving DecidableEq, Repr

/-- The state after a transaction. -/
def transact (t : Transaction) (s : State) : Host.Outcome State Fault Refusal :=
  match t with
  | .reset            => .next s.resetBlock
  | .load rom         => .next (s.load rom)
  | .step             => step s
  | .tick             => .next s.tick
  | .setKey k pressed => .next (s.setKey k pressed)
  | .snapshot         => .next s

/-- What a transaction replies. -/
def reply (t : Transaction) (s : State) : Reply :=
  match t with
  | .load rom   => if romFits rom then .loadOk else .loadError
  | .setKey k _ => if k < 16 then .done else .keyRefused
  | .snapshot   => .screen s.snapshot
  | .reset | .step | .tick => .done

/-- A session: transactions one after another (R221). -/
def runSession : List Transaction → State → Host.Outcome State Fault Refusal
  | [], s => .next s
  | t :: ts, s =>
    match transact t s with
    | .next s'   => runSession ts s'
    | .fault r   => .fault r
    | .refused r => .refused r

end Sys2Proof.Machine
end

