-- ==== Sys2Proof/Machine/Variants.lean ====
section
/-! DEFINITION. The machine at any values of its parameters (00_scope.md R7): CLASS0_MATCH, STACK_UNDERFLOW_POLICY,
KEY_INDEX_POLICY and FONT. At `Config.default` it is `exec`, `step` and `State.reset`. -/

namespace Sys2Proof.Machine

/-- An instruction's effect under a configuration: RET, SKP and SKNP are the instructions a parameter changes
(40_control_flow.md R101, 43_keys_timers.md R166). -/
def execUnder (cfg : Config) (i : Instr) (s : State) : Host.Outcome State Fault Refusal :=
  match i with
  | .ret    => execRetUnder cfg.stackUnderflow s
  | .skp x  => execSkpUnder cfg.keyIndex x s
  | .sknp x => execSknpUnder cfg.keyIndex x s
  | other   => exec other s

/-- One step under a configuration (60_exceptions.md R217, 30_encoding.md R76). -/
def stepUnder (cfg : Config) (s : State) : Host.Outcome State Fault Refusal :=
  match s.fault with
  | some _ => .next s
  | none =>
    match decodeUnder cfg.class0Match s.fetchWord with
    | .ok i    => execUnder cfg i s.advance
    | .error e => execUnknown e s.advance

/-- The state right after reset under a configuration: the font in memory is the parameter FONT (10_state.md R33, R41). -/
def State.resetUnder (cfg : Config) : State :=
  { State.reset with mem := Memory.writeBytes [] 0 (fontBytes cfg.font) }

/-- A transaction under a configuration. -/
def transactUnder (cfg : Config) (t : Transaction) (s : State) : Host.Outcome State Fault Refusal :=
  match t with
  | .reset => .next { State.resetUnder cfg with draws := s.draws }
  | .step  => stepUnder cfg s
  | other  => transact other s

end Sys2Proof.Machine
end

