-- ==== Sys2Proof/Safety.lean ====
section
/-! DEFINITION. The terms the claims use: the invariant of the machine, a normal end of a run, the host's duties, which parts of
the state two states share, and which registers an instruction reads and writes. -/

namespace Sys2Proof.Machine

/-! The invariant. -/

/-- A recorded fault is explained by the word at `pc - 2`, the faulting instruction (60_exceptions.md R202), at the default
policies: a CALL with the stack full, or a key test of a register above 15. -/
def faultExplained (s : State) : Bool :=
  match s.fault with
  | none => true
  | some .stackOverflow =>
    match decode (s.wordAt (s.pc - 2)) with
    | .ok (.call _) => s.sp.val == 16
    | _ => false
  | some .stackUnderflow => false
  | some .keyIndexOutOfRange =>
    match decode (s.wordAt (s.pc - 2)) with
    | .ok (.skp x)  => decide (16 ≤ (s.reg x).toNat)
    | .ok (.sknp x) => decide (16 ≤ (s.reg x).toNat)
    | _ => false

/-- The invariant of the step: memory is canonical, and a recorded fault is explained. -/
def machineInv (s : State) : Bool := s.mem.wf && faultExplained s

/-! Runs. -/

/-- The block executes (60_exceptions.md R203). -/
def running (s : State) : Bool := s.fault == none

/-- A normal end of a run: no fault, and the word at pc is `JP pc` (60_exceptions.md R224). -/
def endedNormally (s : State) : Bool :=
  running s &&
    match decode s.fetchWord with
    | .ok (.jp nnn) => addrOf nnn == s.pc
    | _ => false

/-- How far the host has come (60_exceptions.md R222). -/
inductive HostPhase where
  /-- No reset yet. -/
  | cold
  /-- Reset, no load made since. -/
  | fresh
  /-- Reset and loaded, no step since the load. -/
  | loaded
  /-- Stepping. -/
  | stepping
  deriving DecidableEq, Repr

/-- The host's duties (60_exceptions.md R222): reset, then one load, before the first step, and keys in 0..15 only.
DESIGN CHOICE, safe (log 29): the spec does not say whether a load that returns LoadError is the one load. Here it is not: the
host may load again without a reset, and no step comes before a load that was made (D22: no program runs after a failed load).
After the one load every further one breaks the duty, a refused one too. -/
def hostDuties : HostPhase → List Transaction → Bool
  | _, [] => true
  | _, .reset :: ts => hostDuties .fresh ts
  | .fresh, .load rom :: ts => if romFits rom then hostDuties .loaded ts else hostDuties .fresh ts
  | _, .load _ :: _ => false
  | .loaded, .step :: ts => hostDuties .stepping ts
  | .stepping, .step :: ts => hostDuties .stepping ts
  | _, .step :: _ => false
  | p, .tick :: ts => hostDuties p ts
  | p, .setKey k _ :: ts => decide (k < 16) && hostDuties p ts
  | p, .snapshot :: ts => hostDuties p ts

/-! Frames. -/

/-- The parts of the state (10_state.md R20, and the model's own `draws`). -/
inductive Part where
  | v | i | pc | stack | sp | dt | st | mem | fb | key | fault | draws
  deriving DecidableEq, Repr

/-- The two states agree on a part, as the machine reads it: every register, every byte, every pixel. -/
def Part.same (p : Part) (s t : State) : Prop :=
  match p with
  | .v     => ∀ r : Index, t.reg r = s.reg r
  | .i     => t.i = s.i
  | .pc    => t.pc = s.pc
  | .stack => ∀ k : Index, t.stackEntry k = s.stackEntry k
  | .sp    => t.sp = s.sp
  | .dt    => t.dt = s.dt
  | .st    => t.st = s.st
  | .mem   => ∀ a : Word, t.memRead a = s.memRead a
  | .fb    => ∀ row col : Nat, t.fb.pixel row col = s.fb.pixel row col
  | .key   => ∀ k : Index, t.keyPressed k = s.keyPressed k
  | .fault => t.fault = s.fault
  | .draws => t.draws = s.draws

/-- `t` differs from `s` at most in the listed parts. -/
def sameBut (parts : List Part) (s t : State) : Prop := ∀ p : Part, p ∉ parts → p.same s t

/-- `t`'s registers differ from `s`'s at most in the listed ones. -/
def regsSameBut (rs : List Index) (s t : State) : Prop := ∀ r : Index, r ∉ rs → t.reg r = s.reg r

/-- The outcome with its next state, if it has one, changed by `f`. -/
def mapNext (f : State → State) : Host.Outcome State Fault Refusal → Host.Outcome State Fault Refusal
  | .next s    => .next (f s)
  | .fault r   => .fault r
  | .refused r => .refused r

/-! The registers an instruction reads and writes (10_state.md R23). -/

/-- The general registers an instruction reads. -/
def regsRead : Instr → List Index
  | .sys _ | .cls | .ret | .jp _ | .call _ | .ldI _ => []
  | .seImm x _ | .sneImm x _ | .addImm x _ => [x]
  | .ldImm _ _ | .rnd _ _ => []
  | .seReg x y | .sneReg x y => [x, y]
  | .ldReg _ y => [y]
  | .or x y | .and x y | .xor x y | .addReg x y | .sub x y | .subn x y => [x, y]
  | .shr x _ | .shl x _ => [x]
  | .jpV0 _ => [0]
  | .drw x y _ => [x, y]
  | .skp x | .sknp x | .ldDtVx x | .ldStVx x | .addI x | .ldF x | .ldB x => [x]
  | .ldK _ | .ldVxDt _ | .ldLoad _ => []
  | .ldStore x => (List.finRange 16).filter (· ≤ x)

/-- The general registers an instruction writes. -/
def regsWritten : Instr → List Index
  | .sys _ | .cls | .ret | .jp _ | .call _ | .ldI _ | .jpV0 _ => []
  | .seImm _ _ | .sneImm _ _ | .seReg _ _ | .sneReg _ _ => []
  | .ldImm x _ | .addImm x _ | .rnd x _ | .ldReg x _ | .or x _ | .and x _ | .xor x _ => [x]
  | .addReg x _ | .sub x _ | .subn x _ | .shr x _ | .shl x _ => [x, vf]
  | .drw _ _ _ => [vf]
  | .skp _ | .sknp _ | .ldDtVx _ | .ldStVx _ | .addI _ | .ldF _ | .ldB _ | .ldStore _ => []
  | .ldK x | .ldVxDt x => [x]
  | .ldLoad x => (List.finRange 16).filter (· ≤ x)

/-- The parts of the state an instruction may write, pc beyond the pre-advance included (10_state.md R23, R24, R26 to R30,
R34, R35, R37, R38; 20_memory.md R55), at the default policies. -/
def partsWritten : Instr → List Part
  | .sys _ => []
  | .cls => [.fb]
  | .ret => [.pc, .sp]
  | .jp _ | .jpV0 _ | .seImm _ _ | .sneImm _ _ | .seReg _ _ | .sneReg _ _ => [.pc]
  | .call _ => [.pc, .stack, .sp, .fault]
  | .ldImm _ _ | .addImm _ _ | .ldReg _ _ | .or _ _ | .and _ _ | .xor _ _ => [.v]
  | .addReg _ _ | .sub _ _ | .shr _ _ | .subn _ _ | .shl _ _ => [.v]
  | .rnd _ _ => [.v, .draws]
  | .drw _ _ _ => [.v, .fb]
  | .skp _ | .sknp _ => [.pc, .fault]
  | .ldK _ => [.v, .pc]
  | .ldVxDt _ | .ldLoad _ => [.v]
  | .ldDtVx _ => [.dt]
  | .ldStVx _ => [.st]
  | .ldI _ | .addI _ | .ldF _ => [.i]
  | .ldB _ | .ldStore _ => [.mem]

/-! The display (42_display.md R142). -/

/-- Whether a sprite of these rows, drawn at (x0, y0), has a 1 bit on the pixel (row, col): the start is wrapped once, and what
falls outside the 32 × 64 grid is clipped. -/
def spriteCovers (x0 y0 : Byte) (rows : List Byte) (row col : Nat) : Bool :=
  decide (row < 32) && decide (col < 64) && decide (y0.toNat % 32 ≤ row) && decide (x0.toNat % 64 ≤ col) &&
    decide (col < x0.toNat % 64 + 8) &&
    match rows[row - y0.toNat % 32]? with
    | some byte => byte.getLsbD (7 - (col - x0.toNat % 64))
    | none => false

end Sys2Proof.Machine
end

