-- ==== Sys2Proof/Certificates/Slice0/Obligations.lean ====
section
/-! DEFINITION. The statements for the provers. `exec` takes the state after the pre-advance, so `s.pc` in a statement about
`exec` is pc_fetch + 2 (30_encoding.md R73). A docstring names the rule a statement formalises; where it rests on a decision
of the spec (92_eei_decisions.md), on the spec's general knowledge or on a choice of the model, it says so. -/

open Sys2Proof Sys2Proof.Machine

/-! ## Reset, the invariant, memory -/

/-- 10_state.md section 13: the reset state, part by part, and the reset transaction from any state. The values of the registers
and of memory outside the font are the spec's decisions D19 and D20; that the draw counter is kept is the model's (log 3). -/
def Obligations.ResetLeavesEveryPartAtItsResetValue : Prop :=
  ((∀ r : Index, State.reset.reg r = 0) ∧ State.reset.i = 0 ∧ State.reset.pc = 0x200 ∧ State.reset.sp = 0 ∧
    (∀ k : Index, State.reset.stackEntry k = 0) ∧ State.reset.dt = 0 ∧ State.reset.st = 0 ∧
    (∀ d r : Nat, ∀ hd : d < 16, ∀ hr : r < 5, State.reset.mem.read (5 * d + r) = (Config.default.font[d])[r]) ∧
    (∀ a : Nat, 80 ≤ a → a < 4096 → State.reset.mem.read a = 0) ∧
    (∀ row col : Nat, State.reset.fb.pixel row col = false) ∧
    (∀ k : Index, State.reset.keyPressed k = false) ∧ State.reset.fault = none) ∧
  ∀ s : State, ∃ t, transact .reset s = .next t ∧ sameBut [.draws] State.reset t ∧ t.draws = s.draws

/-- The invariant of the step holds at reset: memory is in the model's canonical form (log 4) and the fault status, none, needs no
explanation. -/
def Obligations.InvariantHoldsAtReset : Prop := machineInv State.reset = true

/-- Every step keeps the invariant: memory stays canonical (the model's form, log 4), and a recorded fault is explained by the
word at pc - 2 (60_exceptions.md section 1, the table of fault kinds; decision D26): a CALL with SP = 16, or an SKP or SKNP whose
register is above 15; StackUnderflow never occurs at the default policy. -/
def Obligations.StepKeepsMemoryCanonicalAndFaultsExplained : Prop :=
  ∀ s t : State, machineInv s = true → step s = .next t → machineInv t = true

/-- Every transaction, under every configuration, keeps memory canonical, and so does the reset state of every FONT (log 4). -/
def Obligations.TransactionsKeepMemoryCanonical : Prop :=
  (∀ cfg : Config, (State.resetUnder cfg).mem.wf = true) ∧
  ∀ (cfg : Config) (tr : Transaction) (s t : State),
    s.mem.wf = true → transactUnder cfg tr s = .next t → t.mem.wf = true

/-- Canonical memories that read the same at every address are the same data (log 4). -/
def Obligations.CanonicalMemoriesReadingAlikeAreEqual : Prop :=
  ∀ m n : Memory, m.wf = true → n.wf = true → (∀ a : Nat, m.read a = n.read a) → m = n

/-- R231: reset clears the framebuffer, which otherwise only CLS clears and only DRW draws on; and after reset, and after reset
and any load, the bytes before 0x200 are the font and then zero; for every FONT. -/
def Obligations.FontAndClearScreenAfterResetAndLoad : Prop :=
  (∀ (cfg : Config) (s : State), ∃ r, transactUnder cfg .reset s = .next r ∧
    (∀ row col : Nat, r.fb.pixel row col = false) ∧
    ∀ u : State, (u = r ∨ ∃ rom, transactUnder cfg (.load rom) r = .next u) →
      (∀ d k : Nat, ∀ hd : d < 16, ∀ hk : k < 5, u.mem.read (5 * d + k) = (cfg.font[d])[k]) ∧
      ∀ a : Nat, 80 ≤ a → a < 0x200 → u.mem.read a = 0) ∧
  ∀ (cfg : Config) (tr : Transaction) (s t : State), tr ≠ .reset →
    (tr = .step → decodeUnder cfg.class0Match s.fetchWord ≠ .ok .cls ∧
      ∀ x y n, decodeUnder cfg.class0Match s.fetchWord ≠ .ok (.drw x y n)) →
    transactUnder cfg tr s = .next t → t.fb = s.fb

/-! ## Encoding -/

/-- Decoding the word of a well-formed instruction gives it back, under both settings of CLASS0_MATCH, and so does decoding its
bytes with any bytes after them. -/
def Obligations.DecodeOfEncodeIsTheInstruction : Prop :=
  (∀ (m : Class0Match) (i : Instr), i.wellFormedUnder m = true → decodeUnder m (encode i) = .ok i) ∧
  ∀ (i : Instr) (rest : List Byte), i.wellFormed = true → decodeBytes (encodeBytes i ++ rest) = .ok (i, rest)

/-- What decodes is well-formed, and its encoding is the word itself on the bits that decoding examines (30_encoding.md sections 3
and 5: the other bits are ignored). -/
def Obligations.EncodeOfDecodeIsTheWordOnExaminedBits : Prop :=
  ∀ (m : Class0Match) (w : Word) (i : Instr), decodeUnder m w = .ok i →
    i.wellFormedUnder m = true ∧ encode i = w &&& examinedBits m i

/-- 30_encoding.md section 3: the unknown words are exactly those of classes 8, E and F with an unlisted sub-code. -/
def Obligations.UnknownWordsAreExactlyTheUnlistedSubcodes : Prop :=
  ∀ (m : Class0Match) (w : Word), (∃ e, decodeUnder m w = .error e) ↔
    (w.extractLsb' 12 4 = 0x8#4 ∧ w.extractLsb' 0 4 ∈ [0x8#4, 0x9#4, 0xA#4, 0xB#4, 0xC#4, 0xD#4, 0xF#4]) ∨
    (w.extractLsb' 12 4 = 0xE#4 ∧ w.extractLsb' 0 8 ∉ [0x9E#8, 0xA1#8]) ∨
    (w.extractLsb' 12 4 = 0xF#4 ∧
      w.extractLsb' 0 8 ∉ [0x07#8, 0x0A#8, 0x15#8, 0x18#8, 0x1E#8, 0x29#8, 0x33#8, 0x55#8, 0x65#8])

/-- 30_encoding.md section 4: a decoded word matches the row of its instruction, and a word that matches a row decodes to an
instruction of that row, unless the row is SYS, which CLS and RET overlap. -/
def Obligations.DecodeSelectsTheOneMatchingRow : Prop :=
  (∀ (w : Word) (i : Instr), decode w = .ok i → w &&& (opcodeRow i).mask = (opcodeRow i).pattern) ∧
  ∀ (w : Word) (j : Instr), w &&& (opcodeRow j).mask = (opcodeRow j).pattern →
    ∃ i, decode w = .ok i ∧ (opcodeRow i = opcodeRow j ∨ (opcodeRow j).mnemonic = "SYS")

/-- A few words written out from 30_encoding.md section 4, one of each family, decode to what they stand for. -/
def Obligations.SampleWordsOfEachFamilyDecode : Prop :=
  decode 0x0123 = .ok (.sys 0x123) ∧ decode 0x00E0 = .ok .cls ∧ decode 0x00EE = .ok .ret ∧
  decode 0x220A = .ok (.call 0x20A) ∧ decode 0x3F07 = .ok (.seImm 0xF 0x07) ∧ decode 0x8AB4 = .ok (.addReg 0xA 0xB) ∧
  decode 0xD015 = .ok (.drw 0 1 5) ∧ decode 0xE19E = .ok (.skp 1) ∧ decode 0xF30A = .ok (.ldK 3) ∧
  decode 0xF255 = .ok (.ldStore 2)

/-! ## The step -/

/-- R52, R73: when the bytes at pc and pc + 1, the one at pc being the high one, decode to an instruction, a step of a block
that is not faulted is that instruction at the state with pc advanced by 2. -/
def Obligations.StepRunsTheDecodedInstruction : Prop :=
  ∀ (s : State) (hi lo : Byte) (i : Instr), s.fault = none → s.memRead s.pc = hi → s.memRead (s.pc + 1) = lo →
    decode (hi ++ lo) = .ok i → step s = exec i { s with pc := s.pc + 2 }

/-- 20_memory.md section 3 (decisions D1, D3): the fetch at the last byte of memory takes its second byte from address 0, at every
pc that names that byte, and an odd pc is fetched as any other. -/
def Obligations.FetchWrapsAtTheEndOfMemory : Prop :=
  (∀ s : State, s.pc.toNat % 4096 = 0xFFF → s.fetchWord = s.mem.read 0xFFF ++ s.mem.read 0) ∧
  ∀ s : State, s.pc.toNat % 4096 ≠ 0xFFF →
    s.fetchWord = s.mem.read (s.pc.toNat % 4096) ++ s.mem.read (s.pc.toNat % 4096 + 1)

/-- R217: nothing when faulted; otherwise one full cycle; the step always completes and returns nothing to the host. -/
def Obligations.StepAlwaysCompletes : Prop :=
  ∀ s : State, transact .step s = step s ∧ reply .step s = .done ∧ (s.fault ≠ none → step s = .next s) ∧
    (s.fault = none → ∀ i, decode s.fetchWord = .ok i → step s = exec i s.advance) ∧
    (s.fault = none → ∀ e, decode s.fetchWord = .error e → step s = .next s.advance) ∧
    ∃ t, step s = .next t

/-- 60_exceptions.md sections 1 and 2: every instruction is executable in every state; none stops the model. -/
def Obligations.EveryInstructionCompletes : Prop := ∀ (i : Instr) (s : State), ∃ t, exec i s = .next t

/-- 30_encoding.md section 3 (decision D30) and 40_control_flow.md section 2 (decision D11): an unknown word and SYS do nothing
beyond the pre-advance. -/
def Obligations.UnknownWordsAndSysDoNothing : Prop :=
  (∀ (s : State) (e : DecodeError), s.fault = none → decode s.fetchWord = .error e →
    step s = .next { s with pc := s.pc + 2 }) ∧
  ∀ (nnn : Addr12) (s : State), exec (.sys nnn) s = .next s

/-- R109, R235: inside a step pc advances before the instruction acts, so a skip whose condition holds lands at pc_fetch + 4 and
else at pc_fetch + 2, whatever the skipped word is; CALL pushes pc_fetch + 2; and LD Vx, K with no key held leaves pc at
pc_fetch. -/
def Obligations.PcOrderInsideAStep : Prop :=
  ∀ s : State, s.fault = none →
    (∀ x kk, decode s.fetchWord = .ok (.seImm x kk) →
      ∃ t, step s = .next t ∧ t.pc = s.pc + (if s.reg x = kk then 4 else 2)) ∧
    (∀ x kk, decode s.fetchWord = .ok (.sneImm x kk) →
      ∃ t, step s = .next t ∧ t.pc = s.pc + (if s.reg x ≠ kk then 4 else 2)) ∧
    (∀ x y, decode s.fetchWord = .ok (.seReg x y) →
      ∃ t, step s = .next t ∧ t.pc = s.pc + (if s.reg x = s.reg y then 4 else 2)) ∧
    (∀ x y, decode s.fetchWord = .ok (.sneReg x y) →
      ∃ t, step s = .next t ∧ t.pc = s.pc + (if s.reg x ≠ s.reg y then 4 else 2)) ∧
    (∀ x, ∀ k : Index, decode s.fetchWord = .ok (.skp x) → (s.reg x).toNat = k.val →
      ∃ t, step s = .next t ∧ t.pc = s.pc + (if s.keyPressed k = true then 4 else 2)) ∧
    (∀ x, ∀ k : Index, decode s.fetchWord = .ok (.sknp x) → (s.reg x).toNat = k.val →
      ∃ t, step s = .next t ∧ t.pc = s.pc + (if s.keyPressed k = true then 2 else 4)) ∧
    (∀ nnn, ∀ k : Index, decode s.fetchWord = .ok (.call nnn) → s.sp.val = k.val →
      ∃ t, step s = .next t ∧ t.stackEntry k = s.pc + 2) ∧
    (∀ x, decode s.fetchWord = .ok (.ldK x) → (∀ k : Index, s.keyPressed k = false) →
      ∃ t, step s = .next t ∧ t.pc = s.pc)

/-- 20_memory.md section 7 (derived there from R52, R57 and R65): the bytes a bulk store leaves are what the next step
fetches, if pc points at them. -/
def Obligations.StoredBytesAreFetchedByTheNextStep : Prop :=
  ∀ (s t : State) (x : Index) (k : Nat), s.fault = none → decode s.fetchWord = .ok (.ldStore x) → k < x.val →
    mask (s.pc + 2) = mask (s.effAddr k) → step s = .next t →
    t.fetchWord = s.reg (Fin.ofNat 16 k) ++ s.reg (Fin.ofNat 16 (k + 1))

/-! ## Faults -/

/-- 60_exceptions.md section 1 (decisions D5, D14, D26): which instructions raise a fault and when, and that a raise changes the
fault status and nothing else after the pre-advance. -/
def Obligations.FaultsAreRaisedOnlyByFullCallAndBadKeyIndex : Prop :=
  ∀ (i : Instr) (s t : State), exec i s = .next t →
    t.fault = s.fault ∨
    ((∃ nnn, i = .call nnn) ∧ s.sp.val = 16 ∧ t.fault = some .stackOverflow ∧ sameBut [.fault] s t) ∨
    ((∃ x, (i = .skp x ∨ i = .sknp x) ∧ 16 ≤ (s.reg x).toNat) ∧ t.fault = some .keyIndexOutOfRange ∧
      sameBut [.fault] s t)

/-- 60_exceptions.md section 1 (decision D26): a faulted block stays as it is under every session without a reset, but for what
ticks, keys and loads change, and every such session completes. -/
def Obligations.FaultIsStickyUntilReset : Prop :=
  ∀ (ts : List Transaction) (s : State), s.fault ≠ none → Transaction.reset ∉ ts →
    ∃ t, runSession ts s = .next t ∧ t.fault = s.fault ∧ sameBut [.dt, .st, .mem, .key] s t ∧
      ((∀ rom, Transaction.load rom ∉ ts) → Part.mem.same s t)

/-! ## Whole-machine frames -/

/-- 10_state.md (section 2's table of writers among them) and 20_memory.md section 4: what each instruction may write, part by
part and register by register; everything else keeps its value. -/
def Obligations.InstructionsWriteOnlyTheirParts : Prop :=
  ∀ (i : Instr) (s t : State), exec i s = .next t → sameBut (partsWritten i) s t ∧ regsSameBut (regsWritten i) s t

/-- 10_state.md section 2, the table of readers: when only registers outside an instruction's list differ, the outcome is the
same in every other part, and each register gets the same value or is left alone. -/
def Obligations.InstructionsReadOnlyTheirRegisters : Prop :=
  ∀ (i : Instr) (s t t' : State) (u : Vector Byte 16),
    (∀ r ∈ regsRead i, State.reg { s with v := u } r = s.reg r) →
    exec i s = .next t → exec i { s with v := u } = .next t' →
    sameBut [.v] t t' ∧
      ∀ r : Index, t'.reg r = t.reg r ∨ (t.reg r = s.reg r ∧ t'.reg r = State.reg { s with v := u } r)

/-- R50: memory is reached only by DRW, LD B, LD [I] and LD Vx, [I] beside the fetch; what the others do does not depend on it
and leaves it; and no memory write reaches any other part of the state. -/
def Obligations.MemoryIsReachedOnlyByItsInstructions : Prop :=
  (∀ (i : Instr) (s : State) (m : Memory), (∀ x y n, i ≠ .drw x y n) → (∀ x, i ≠ .ldB x) → (∀ x, i ≠ .ldStore x) →
    (∀ x, i ≠ .ldLoad x) → exec i { s with mem := m } = mapNext (fun t => { t with mem := m }) (exec i s)) ∧
  (∀ (i : Instr) (s t : State), (∀ x, i ≠ .ldB x) → (∀ x, i ≠ .ldStore x) → exec i s = .next t → t.mem = s.mem) ∧
  ∀ (x : Index) (s : State), (∃ t, exec (.ldB x) s = .next t ∧ sameBut [.mem] s t) ∧
    ∃ t, exec (.ldStore x) s = .next t ∧ sameBut [.mem] s t

/-- 20_memory.md section 1, 10_state.md section 4 (decisions D1, D4; gap G28): the top four bits of I name no byte, so they
change no instruction's outcome outside I. -/
def Obligations.TopBitsOfIDoNotReachMemory : Prop :=
  ∀ (i : Instr) (s t t' : State) (a : Word), mask a = mask s.i → exec i s = .next t →
    exec i { s with i := a } = .next t' → sameBut [.i] t t'

/-- R35: keys are the host's to write; no instruction changes them; only SKP, SKNP and LD Vx, K read them. -/
def Obligations.KeysAreWrittenByTheHostOnly : Prop :=
  (∀ (i : Instr) (s t : State), exec i s = .next t → t.key = s.key) ∧
  (∀ (k : Index) (p : Bool) (s : State), ∃ t, transact (.setKey k.val p) s = .next t ∧
    (∀ j : Index, t.keyPressed j = if j = k then p else s.keyPressed j) ∧ sameBut [.key] s t) ∧
  (∀ (tr : Transaction) (s t : State), (∀ k p, tr ≠ .setKey k p) → tr ≠ .reset → transact tr s = .next t →
    t.key = s.key) ∧
  ∀ (i : Instr) (s : State) (ks : Vector Bool 16), (∀ x, i ≠ .skp x) → (∀ x, i ≠ .sknp x) → (∀ x, i ≠ .ldK x) →
    exec i { s with key := ks } = mapNext (fun t => { t with key := ks }) (exec i s)

/-- R30: ST is written by LD ST, Vx and decremented by a tick; no instruction reads it. -/
def Obligations.SoundTimerIsWrittenAndNeverRead : Prop :=
  (∀ (x : Index) (s : State), ∃ t, exec (.ldStVx x) s = .next t ∧ t.st = s.reg x ∧ sameBut [.st] s t) ∧
  (∀ s : State, ∃ t, transact .tick s = .next t ∧ t.st.toNat = s.st.toNat - 1) ∧
  (∀ (i : Instr) (s : State) (b : Byte), (∀ x, i ≠ .ldStVx x) →
    exec i { s with st := b } = mapNext (fun t => { t with st := b }) (exec i s)) ∧
  ∀ (x : Index) (s : State) (b : Byte), exec (.ldStVx x) { s with st := b } = exec (.ldStVx x) s

/-- 10_state.md section 6 (decision D36): of the instructions only LD Vx, DT reads DT, LD DT, Vx not excepted, and only LD DT, Vx
changes it. -/
def Obligations.DelayTimerIsReadByOneInstruction : Prop :=
  (∀ (i : Instr) (s : State) (b : Byte), (∀ x, i ≠ .ldVxDt x) → (∀ x, i ≠ .ldDtVx x) →
    exec i { s with dt := b } = mapNext (fun t => { t with dt := b }) (exec i s)) ∧
  (∀ (x : Index) (s : State) (b : Byte), exec (.ldDtVx x) { s with dt := b } = exec (.ldDtVx x) s) ∧
  ∀ (i : Instr) (s t : State), (∀ x, i ≠ .ldDtVx x) → exec i s = .next t → t.dt = s.dt

/-! ## Control flow -/

/-- R102: JP sets pc to nnn and changes nothing else. -/
def Obligations.JpGoesToItsTarget : Prop :=
  ∀ (nnn : Addr12) (s : State), ∃ t, exec (.jp nnn) s = .next t ∧ t.pc.toNat = nnn.toNat ∧ sameBut [.pc] s t

/-- 40_control_flow.md section 2 (general knowledge GK5, decision D10): JP V0 goes to nnn + V[0] mod 2^16; nothing else
changes. -/
def Obligations.JpV0AddsTheFirstRegister : Prop :=
  ∀ (nnn : Addr12) (s : State), ∃ t, exec (.jpV0 nnn) s = .next t ∧
    t.pc.toNat = (nnn.toNat + (s.reg 0).toNat) % 2 ^ 16 ∧ sameBut [.pc] s t

/-- 40_control_flow.md section 2, CALL (decision D5): below the capacity it pushes the advanced pc and jumps; at SP = 16 it
raises StackOverflow and changes nothing else. -/
def Obligations.CallPushesOrOverflows : Prop :=
  ∀ (nnn : Addr12) (s : State),
    (s.sp.val < 16 → ∃ t, exec (.call nnn) s = .next t ∧
      (∀ k : Index, t.stackEntry k = if k.val = s.sp.val then s.pc else s.stackEntry k) ∧
      t.sp.val = s.sp.val + 1 ∧ t.pc.toNat = nnn.toNat ∧ sameBut [.pc, .stack, .sp] s t) ∧
    (s.sp.val = 16 → ∃ t, exec (.call nnn) s = .next t ∧ t.fault = some .stackOverflow ∧ sameBut [.fault] s t)

/-- 40_control_flow.md section 2, RET (decision D6): under every policy it pops into pc when the stack is not empty. With an empty
stack SP stays 0 and pc takes entry 0 under the default policy, and StackUnderflow is raised under the policy `fault`. -/
def Obligations.RetPopsOrClamps : Prop :=
  ∀ s : State,
    (∀ k : Index, s.sp.val = k.val + 1 →
      (∃ t, exec .ret s = .next t ∧ t.pc = s.stackEntry k ∧ t.sp.val = k.val ∧ sameBut [.pc, .sp] s t) ∧
      ∀ cfg : Config, ∃ t, execUnder cfg .ret s = .next t ∧ t.pc = s.stackEntry k ∧ t.sp.val = k.val ∧
        sameBut [.pc, .sp] s t) ∧
    (s.sp.val = 0 → ∃ t, exec .ret s = .next t ∧ t.pc = s.stackEntry 0 ∧ sameBut [.pc] s t) ∧
    ∀ cfg : Config, cfg.stackUnderflow = .fault → s.sp.val = 0 →
      ∃ t, execUnder cfg .ret s = .next t ∧ t.fault = some .stackUnderflow ∧ sameBut [.fault] s t

/-- 95_test_vectors.md S5: CALL, then RET in any state with the same stack and SP, comes back to the instruction after the
call. -/
def Obligations.ReturnUndoesCall : Prop :=
  ∀ (nnn : Addr12) (s t u : State), s.sp.val < 16 → exec (.call nnn) s = .next t → u.stack = t.stack → u.sp = t.sp →
    ∃ r, exec .ret u = .next r ∧ r.pc = s.pc ∧ r.sp = s.sp ∧ sameBut [.pc, .sp] u r

/-- R104, R105: the skips on an immediate add 2 to pc when their condition holds, and change nothing else. -/
def Obligations.ImmediateSkipsAddTwo : Prop :=
  ∀ (x : Index) (kk : Byte) (s : State),
    (∃ t, exec (.seImm x kk) s = .next t ∧ t.pc = (if s.reg x = kk then s.pc + 2 else s.pc) ∧ sameBut [.pc] s t) ∧
    ∃ t, exec (.sneImm x kk) s = .next t ∧ t.pc = (if s.reg x = kk then s.pc else s.pc + 2) ∧ sameBut [.pc] s t

/-- 40_control_flow.md section 2, SE and SNE of registers (decision D13): as the immediate skips, on V[y]; with x = y SE always
skips and SNE never does. -/
def Obligations.RegisterSkipsAddTwo : Prop :=
  (∀ (x y : Index) (s : State),
    (∃ t, exec (.seReg x y) s = .next t ∧ t.pc = (if s.reg x = s.reg y then s.pc + 2 else s.pc) ∧ sameBut [.pc] s t) ∧
    ∃ t, exec (.sneReg x y) s = .next t ∧ t.pc = (if s.reg x = s.reg y then s.pc else s.pc + 2) ∧ sameBut [.pc] s t) ∧
  ∀ (x : Index) (s : State), (∃ t, exec (.seReg x x) s = .next t ∧ t.pc = s.pc + 2) ∧ exec (.sneReg x x) s = .next s

/-! ## Registers and ALU -/

/-- R120, R122: the loads of an immediate and of a register. -/
def Obligations.LoadImmediateAndCopy : Prop :=
  (∀ (x : Index) (kk : Byte) (s : State), ∃ t, exec (.ldImm x kk) s = .next t ∧ t.reg x = kk ∧
    regsSameBut [x] s t ∧ sameBut [.v] s t) ∧
  ∀ (x y : Index) (s : State), ∃ t, exec (.ldReg x y) s = .next t ∧ t.reg x = s.reg y ∧
    regsSameBut [x] s t ∧ sameBut [.v] s t

/-- R121: ADD Vx, kk wraps mod 256 and touches no other register, VF included. -/
def Obligations.AddImmediateWraps : Prop :=
  ∀ (x : Index) (kk : Byte) (s : State), ∃ t, exec (.addImm x kk) s = .next t ∧
    (t.reg x).toNat = ((s.reg x).toNat + kk.toNat) % 256 ∧ regsSameBut [x] s t ∧ sameBut [.v] s t

/-- R123, R124, R125: OR, AND and XOR bit by bit, with no flag. -/
def Obligations.LogicIsBitwiseWithoutFlag : Prop :=
  ∀ (x y : Index) (s : State),
    (∃ t, exec (.or x y) s = .next t ∧
      (∀ b : Nat, (t.reg x).getLsbD b = ((s.reg x).getLsbD b || (s.reg y).getLsbD b)) ∧
      regsSameBut [x] s t ∧ sameBut [.v] s t) ∧
    (∃ t, exec (.and x y) s = .next t ∧
      (∀ b : Nat, (t.reg x).getLsbD b = ((s.reg x).getLsbD b && (s.reg y).getLsbD b)) ∧
      regsSameBut [x] s t ∧ sameBut [.v] s t) ∧
    ∃ t, exec (.xor x y) s = .next t ∧
      (∀ b : Nat, (t.reg x).getLsbD b = ((s.reg x).getLsbD b ^^ (s.reg y).getLsbD b)) ∧
      regsSameBut [x] s t ∧ sameBut [.v] s t

/-- 41_alu.md sections 1 and 3, ADD: the sum mod 256, VF = 1 iff it exceeds 255; with x = 0xF VF holds the flag (decision
D7). -/
def Obligations.AddSetsCarry : Prop :=
  ∀ (x y : Index) (s : State), ∃ t, exec (.addReg x y) s = .next t ∧
    (x ≠ vf → (t.reg x).toNat = ((s.reg x).toNat + (s.reg y).toNat) % 256) ∧
    (t.reg vf).toNat = (if (s.reg x).toNat + (s.reg y).toNat > 255 then 1 else 0) ∧
    regsSameBut [x, vf] s t ∧ sameBut [.v] s t

/-- 41_alu.md sections 1 and 3, SUB and SUBN: the difference mod 256, VF = 1 iff there is no borrow; with x = 0xF VF holds the
flag (decisions D7, D8; SUBN's formula is general knowledge GK7). -/
def Obligations.SubtractionsSetNoBorrow : Prop :=
  ∀ (x y : Index) (s : State),
    (∃ t, exec (.sub x y) s = .next t ∧
      (x ≠ vf → ((t.reg x).toNat : Int) = ((s.reg x).toNat - (s.reg y).toNat : Int) % 256) ∧
      (t.reg vf).toNat = (if (s.reg x).toNat ≥ (s.reg y).toNat then 1 else 0) ∧
      regsSameBut [x, vf] s t ∧ sameBut [.v] s t) ∧
    ∃ t, exec (.subn x y) s = .next t ∧
      (x ≠ vf → ((t.reg x).toNat : Int) = ((s.reg y).toNat - (s.reg x).toNat : Int) % 256) ∧
      (t.reg vf).toNat = (if (s.reg y).toNat ≥ (s.reg x).toNat then 1 else 0) ∧
      regsSameBut [x, vf] s t ∧ sameBut [.v] s t

/-- 41_alu.md section 3, SHR and SHL: in place, VF takes the bit shifted out, y is not read; with x = 0xF VF holds the flag
(decision D7). -/
def Obligations.ShiftsMoveOneBitIntoVF : Prop :=
  ∀ (x y : Index) (s : State),
    (∃ t, exec (.shr x y) s = .next t ∧ (x ≠ vf → (t.reg x).toNat = (s.reg x).toNat / 2) ∧
      (t.reg vf).toNat = (s.reg x).toNat % 2 ∧ regsSameBut [x, vf] s t ∧ sameBut [.v] s t) ∧
    ∃ t, exec (.shl x y) s = .next t ∧ (x ≠ vf → (t.reg x).toNat = 2 * (s.reg x).toNat % 256) ∧
      (t.reg vf).toNat = (s.reg x).toNat / 128 ∧ regsSameBut [x, vf] s t ∧ sameBut [.v] s t

/-- 41_alu.md section 4, RND (decision D18): for every byte the source may give, V[x] takes it masked with kk, and one byte is
consumed; the byte of a run is the next free value (log 2). -/
def Obligations.RndMasksAnyRandomByte : Prop :=
  (∀ (x : Index) (kk : Byte) (s : State), ∃ t, exec (.rnd x kk) s = .next t ∧
    t.reg x = Config.randomByte s.draws &&& kk ∧ t.draws = s.draws + 1 ∧ regsSameBut [x] s t ∧
    sameBut [.v, .draws] s t) ∧
  ∀ (r : Byte) (x : Index) (kk : Byte) (s : State), ∃ t, rndWith r x kk s = .next t ∧ t.reg x = r &&& kk ∧
    t.draws = s.draws + 1 ∧ regsSameBut [x] s t ∧ sameBut [.v, .draws] s t

/-! ## Display -/

/-- R140: CLS turns all pixels OFF and changes nothing else, VF included. -/
def Obligations.ClsTurnsEveryPixelOff : Prop :=
  ∀ s : State, ∃ t, exec .cls s = .next t ∧ (∀ row col : Nat, t.fb.pixel row col = false) ∧ sameBut [.fb] s t

/-- R142, R143: DrawSprite toggles exactly the pixels the sprite covers, the start wrapped and the rest clipped, and the
collision bit is 1 exactly when one of them was ON. -/
def Obligations.DrawSpriteTogglesCoveredPixels : Prop :=
  ∀ (fb : Framebuffer) (x0 y0 : Byte) (rows : List Byte),
    (∀ row col : Nat, (drawSprite fb x0 y0 rows).1.pixel row col =
      (fb.pixel row col ^^ spriteCovers x0 y0 rows row col)) ∧
    ((drawSprite fb x0 y0 rows).2 = true ↔
      ∃ row col : Nat, spriteCovers x0 y0 rows row col = true ∧ fb.pixel row col = true)

/-- 42_display.md section 1 (derived there from R142 and R143): drawing the same sprite twice restores the framebuffer. The second
drawing collides exactly when the first turned a pixel ON: R144's last clause says "toggled", which R143 refutes where the sprite
covers ON pixels only (log 26). -/
def Obligations.DrawingTwiceRestoresTheScreen : Prop :=
  ∀ (fb : Framebuffer) (x0 y0 : Byte) (rows : List Byte),
    (drawSprite (drawSprite fb x0 y0 rows).1 x0 y0 rows).1 = fb ∧
    ((drawSprite (drawSprite fb x0 y0 rows).1 x0 y0 rows).2 = true ↔
      ∃ row col : Nat, (drawSprite fb x0 y0 rows).1.pixel row col = true ∧ fb.pixel row col = false)

/-- 42_display.md section 2, DRW (decision D29): it draws the n bytes at I, I + 1, .. at (V[x], V[y]) as they were before VF took
the collision bit, and changes nothing but the framebuffer and VF; n = 0 draws nothing and clears VF. -/
def Obligations.DrwDrawsTheBytesAtI : Prop :=
  ∀ (x y n : Index) (s : State) (rows : List Byte), rows.length = n.val →
    (∀ k : Nat, ∀ hk : k < rows.length, rows[k] = s.memRead (s.i + BitVec.ofNat 16 k)) →
    ∃ t, exec (.drw x y n) s = .next t ∧
      (∀ row col : Nat, t.fb.pixel row col =
        (s.fb.pixel row col ^^ spriteCovers (s.reg x) (s.reg y) rows row col)) ∧
      (t.reg vf = 0 ∨ t.reg vf = 1) ∧
      (t.reg vf = 1 ↔ ∃ row col : Nat,
        spriteCovers (s.reg x) (s.reg y) rows row col = true ∧ s.fb.pixel row col = true) ∧
      regsSameBut [vf] s t ∧ sameBut [.v, .fb] s t

/-! ## Keys and timers -/

/-- 43_keys_timers.md section 2, SKP and SKNP at the default policy (decision D14): with V[x] a key they skip on its state; with
V[x] above 15 they raise KeyIndexOutOfRange and change nothing else. -/
def Obligations.KeySkipsTestTheNamedKey : Prop :=
  (∀ (x k : Index) (s : State), (s.reg x).toNat = k.val →
    (∃ t, exec (.skp x) s = .next t ∧ t.pc = (if s.keyPressed k then s.pc + 2 else s.pc) ∧ sameBut [.pc] s t) ∧
    ∃ t, exec (.sknp x) s = .next t ∧ t.pc = (if s.keyPressed k then s.pc else s.pc + 2) ∧ sameBut [.pc] s t) ∧
  ∀ (x : Index) (s : State), 16 ≤ (s.reg x).toNat →
    (∃ t, exec (.skp x) s = .next t ∧ t.fault = some .keyIndexOutOfRange ∧ sameBut [.fault] s t) ∧
    ∃ t, exec (.sknp x) s = .next t ∧ t.fault = some .keyIndexOutOfRange ∧ sameBut [.fault] s t

/-- 43_keys_timers.md section 1, the table of KEY_INDEX_POLICY (decision D14): up to 15 every policy tests the key V[x]; above 15
`low_nibble` tests key V[x] & 0xF and `not_pressed` takes the key as not pressed. -/
def Obligations.KeyIndexPoliciesAboveFifteen : Prop :=
  ∀ (cfg : Config) (x : Index) (s : State),
    (∀ k : Index, (s.reg x).toNat = k.val →
      (∃ t, execUnder cfg (.skp x) s = .next t ∧ t.pc = (if s.keyPressed k then s.pc + 2 else s.pc) ∧
        sameBut [.pc] s t) ∧
      ∃ t, execUnder cfg (.sknp x) s = .next t ∧ t.pc = (if s.keyPressed k then s.pc else s.pc + 2) ∧
        sameBut [.pc] s t) ∧
    (16 ≤ (s.reg x).toNat →
      (cfg.keyIndex = .lowNibble → ∀ k : Index, (s.reg x).toNat % 16 = k.val →
        (∃ t, execUnder cfg (.skp x) s = .next t ∧ t.pc = (if s.keyPressed k then s.pc + 2 else s.pc) ∧
          sameBut [.pc] s t) ∧
        ∃ t, execUnder cfg (.sknp x) s = .next t ∧ t.pc = (if s.keyPressed k then s.pc else s.pc + 2) ∧
          sameBut [.pc] s t) ∧
      (cfg.keyIndex = .notPressed →
        execUnder cfg (.skp x) s = .next s ∧
        ∃ t, execUnder cfg (.sknp x) s = .next t ∧ t.pc = s.pc + 2 ∧ sameBut [.pc] s t))

/-- 43_keys_timers.md section 2, LD Vx, K (decision D15): the lowest key held goes to V[x]; with none held pc goes back by 2, and
nothing else changes. -/
def Obligations.LdKTakesTheLowestKeyOrWaits : Prop :=
  ∀ (x : Index) (s : State),
    (∀ k : Index, s.keyPressed k = true → (∀ j : Index, j < k → s.keyPressed j = false) →
      ∃ t, exec (.ldK x) s = .next t ∧ (t.reg x).toNat = k.val ∧ regsSameBut [x] s t ∧ sameBut [.v] s t) ∧
    ((∀ k : Index, s.keyPressed k = false) → ∃ t, exec (.ldK x) s = .next t ∧ t.pc = s.pc - 2 ∧ sameBut [.pc] s t)

/-- 95_test_vectors.md S8 (decision D15): a block that waits for a key stays exactly as it is for any number of steps, and the
step after a key is set stores it and goes on. -/
def Obligations.WaitForKeyHoldsThenTakesTheKey : Prop :=
  ∀ (x k : Index) (s : State), s.fault = none → decode s.fetchWord = .ok (.ldK x) →
    (∀ j : Index, s.keyPressed j = false) → ∀ n : Nat,
    runSession (List.replicate n .step) s = .next s ∧
    ∃ t, runSession (List.replicate n .step ++ [.setKey k.val true, .step]) s = .next t ∧
      (t.reg x).toNat = k.val ∧ t.pc = s.pc + 2 ∧ regsSameBut [x] s t ∧ sameBut [.v, .pc, .key] s t

/-- R163, R164: the delay timer is read into V[x] and set from it. -/
def Obligations.DelayTimerMoves : Prop :=
  ∀ (x : Index) (s : State),
    (∃ t, exec (.ldVxDt x) s = .next t ∧ t.reg x = s.dt ∧ regsSameBut [x] s t ∧ sameBut [.v] s t) ∧
    ∃ t, exec (.ldDtVx x) s = .next t ∧ t.dt = s.reg x ∧ sameBut [.dt] s t

/-- R218: a tick takes both timers down by 1, floored at 0, each on its own, faulted or not, and changes nothing else. -/
def Obligations.TickCountsBothTimersDown : Prop :=
  ∀ s : State, ∃ t, transact .tick s = .next t ∧ t.dt.toNat = s.dt.toNat - 1 ∧ t.st.toNat = s.st.toNat - 1 ∧
    sameBut [.dt, .st] s t

/-! ## Address register and memory -/

/-- 44_index_memory.md section 2, LD I, ADD I, LD F (general knowledge GK4; decisions D4, D9, D16). -/
def Obligations.IndexRegisterInstructionsSetI : Prop :=
  (∀ (nnn : Addr12) (s : State), ∃ t, exec (.ldI nnn) s = .next t ∧ t.i.toNat = nnn.toNat ∧ sameBut [.i] s t) ∧
  ∀ (x : Index) (s : State),
    (∃ t, exec (.addI x) s = .next t ∧ t.i.toNat = (s.i.toNat + (s.reg x).toNat) % 2 ^ 16 ∧ sameBut [.i] s t) ∧
    ∃ t, exec (.ldF x) s = .next t ∧ t.i.toNat = 5 * (s.reg x).toNat ∧ sameBut [.i] s t

/-- 44_index_memory.md section 2, LD B (decision D17): the three decimal digits at I, I + 1, I + 2, every other byte and
everything else unchanged. -/
def Obligations.LdBStoresDecimalDigits : Prop :=
  ∀ (x : Index) (s : State), ∃ t, exec (.ldB x) s = .next t ∧
    (t.memRead (s.effAddr 0)).toNat = (s.reg x).toNat / 100 ∧
    (t.memRead (s.effAddr 1)).toNat = (s.reg x).toNat / 10 % 10 ∧
    (t.memRead (s.effAddr 2)).toNat = (s.reg x).toNat % 10 ∧
    (∀ a : Word, (∀ k : Nat, k < 3 → mask a ≠ mask (s.effAddr k)) → t.memRead a = s.memRead a) ∧
    sameBut [.mem] s t

/-- 44_index_memory.md section 2, LD [I] (decision D17): V[k] at I + k for k up to x, every other byte and everything else
unchanged. -/
def Obligations.BulkStoreWritesRegistersAtI : Prop :=
  ∀ (x : Index) (s : State), ∃ t, exec (.ldStore x) s = .next t ∧
    (∀ k : Index, k ≤ x → t.memRead (s.effAddr k.val) = s.reg k) ∧
    (∀ a : Word, (∀ k : Index, k ≤ x → mask a ≠ mask (s.effAddr k.val)) → t.memRead a = s.memRead a) ∧
    sameBut [.mem] s t

/-- 44_index_memory.md section 2, LD Vx, [I] (decision D17): V[k] from I + k for k up to x, every other register, all memory and
everything else unchanged. -/
def Obligations.BulkLoadReadsRegistersFromI : Prop :=
  ∀ (x : Index) (s : State), ∃ t, exec (.ldLoad x) s = .next t ∧
    (∀ k : Index, t.reg k = if k ≤ x then s.memRead (s.effAddr k.val) else s.reg k) ∧ sameBut [.v] s t

/-! ## The host -/

/-- 20_memory.md section 8, 60_exceptions.md section 5 (decision D22): a ROM of at most 3584 bytes is written at 0x200 and
nothing else changes; a longer one changes nothing; the reply says which. -/
def Obligations.LoadWritesTheRomOrNothing : Prop :=
  ∀ (rom : List Byte) (s : State),
    (rom.length ≤ 3584 → reply (.load rom) s = .loadOk ∧ ∃ t, transact (.load rom) s = .next t ∧
      (∀ j : Nat, ∀ hj : j < rom.length, t.mem.read (0x200 + j) = rom[j]) ∧
      (∀ a : Nat, a < 4096 → (a < 0x200 ∨ 0x200 + rom.length ≤ a) → t.mem.read a = s.mem.read a) ∧
      sameBut [.mem] s t) ∧
    (3584 < rom.length → reply (.load rom) s = .loadError ∧ transact (.load rom) s = .next s)

/-- 60_exceptions.md sections 3 and 5 (decisions D25, D35): a snapshot gives the framebuffer and changes nothing; a key above 15
is refused and changes nothing; sound_active is ST ≠ 0. -/
def Obligations.SnapshotSoundAndRefusedKeys : Prop :=
  ∀ s : State, (transact .snapshot s = .next s ∧ reply .snapshot s = .screen s.fb) ∧
    (∀ (k : Nat) (p : Bool), 16 ≤ k → transact (.setKey k p) s = .next s ∧ reply (.setKey k p) s = .keyRefused) ∧
    (s.soundActive = true ↔ s.st ≠ 0)

/-- 60_exceptions.md section 5 (decision D34): a run that has ended normally stays exactly as it is for any number of steps. -/
def Obligations.EndedRunStaysEnded : Prop :=
  ∀ s : State, endedNormally s = true → ∀ n : Nat, runSession (List.replicate n .step) s = .next s

/-- 60_exceptions.md section 5, the table of host duties, and 70_reset_and_hazards.md section 2, the boot order (decisions D19,
D20, D22): a session that begins with a reset, keeps the duties, has loaded a ROM that fits and has not stepped yet is ready: pc is
0x200, the registers are 0, SP is 0, there is no fault, the ROM stands at 0x200 and zeros after it. That a refused load is not the
one load, so that the host may load again, is the model's choice (log 29). -/
def Obligations.DutifulSessionIsReadyForItsFirstStep : Prop :=
  ∀ (ts : List Transaction) (rom : List Byte) (s t : State), hostDuties .cold (.reset :: ts) = true →
    Transaction.reset ∉ ts → Transaction.step ∉ ts → Transaction.load rom ∈ ts → rom.length ≤ 3584 →
    runSession (.reset :: ts) s = .next t →
    t.pc = 0x200 ∧ (∀ r : Index, t.reg r = 0) ∧ t.sp = 0 ∧ t.fault = none ∧
      (∀ j : Nat, ∀ hj : j < rom.length, t.mem.read (0x200 + j) = rom[j]) ∧
      ∀ a : Nat, 0x200 + rom.length ≤ a → a < 4096 → t.mem.read a = 0

/-- 00_scope.md section 4: at the default parameters the parametrised machine is the machine: its instructions, its step, its
reset state and its transactions. 60_exceptions.md section 5 (R217): at every setting of the parameters a step completes. -/
def Obligations.DefaultParametersGiveTheMachine : Prop :=
  (∀ (i : Instr) (s : State), execUnder Config.default i s = exec i s) ∧
  (∀ s : State, stepUnder Config.default s = step s) ∧ State.resetUnder Config.default = State.reset ∧
  (∀ (tr : Transaction) (s : State), transactUnder Config.default tr s = transact tr s) ∧
  ∀ (cfg : Config) (s : State), ∃ t, stepUnder cfg s = .next t
end

