-- ==== Sys2Proof/Laws/Decode.lean ====
section
/-! SUPPORT. What each field of an encoded word is (00_scope.md R12, 30_encoding.md R71). -/

namespace Sys2Proof

theorem extract_append_high {m n : Nat} (a : BitVec m) (b : BitVec n) :
    (a ++ b).extractLsb' n m = a := by
  apply BitVec.eq_of_getLsbD_eq
  intro i hi
  simp [BitVec.getLsbD_append, hi]

theorem extract_append_low {m n : Nat} (a : BitVec m) (b : BitVec n) (s k : Nat) (h : s + k ≤ n) :
    (a ++ b).extractLsb' s k = b.extractLsb' s k := by
  apply BitVec.eq_of_getLsbD_eq
  intro i hi
  simp [BitVec.getLsbD_append, hi, show s + i < n by omega]

theorem extract_append_mid {m n : Nat} (a : BitVec m) (b : BitVec n) (s k : Nat) (h : n ≤ s) :
    (a ++ b).extractLsb' s k = a.extractLsb' (s - n) k := by
  apply BitVec.eq_of_getLsbD_eq
  intro i hi
  simp [BitVec.getLsbD_append, hi, show ¬s + i < n by omega, show s + i - n = s - n + i by omega]

theorem extract_whole {n : Nat} (b : BitVec n) : b.extractLsb' 0 n = b := by
  apply BitVec.eq_of_getLsbD_eq
  intro i hi
  simp [hi]

@[simp] theorem toFin_nibble (k : Index) : (nibble k).toFin = k := rfl

@[simp] theorem fieldC_wordA (c : BitVec 4) (nnn : Addr12) : fieldC (wordA c nnn) = c.toNat := by
  rw [fieldC, wordA, extract_append_high]
@[simp] theorem fieldNNN_wordA (c : BitVec 4) (nnn : Addr12) : fieldNNN (wordA c nnn) = nnn := by
  rw [fieldNNN, wordA, extract_append_low _ _ _ _ (by decide), extract_whole]
@[simp] theorem fieldKK_wordA (c : BitVec 4) (nnn : Addr12) : fieldKK (wordA c nnn) = nnn.setWidth 8 := by
  rw [fieldKK, wordA, extract_append_low _ _ _ _ (by decide)]
  apply BitVec.eq_of_getLsbD_eq
  intro i hi
  simp [hi]

@[simp] theorem fieldC_wordXK (c : BitVec 4) (x : Index) (kk : Byte) : fieldC (wordXK c x kk) = c.toNat := by
  rw [fieldC, wordXK, extract_append_high]
@[simp] theorem fieldX_wordXK (c : BitVec 4) (x : Index) (kk : Byte) : fieldX (wordXK c x kk) = x := by
  rw [fieldX, wordXK, extract_append_low _ _ _ _ (by decide), extract_append_high, toFin_nibble]
@[simp] theorem fieldKK_wordXK (c : BitVec 4) (x : Index) (kk : Byte) : fieldKK (wordXK c x kk) = kk := by
  rw [fieldKK, wordXK, extract_append_low _ _ _ _ (by decide), extract_append_low _ _ _ _ (by decide),
    extract_whole]

@[simp] theorem fieldC_wordXYN (c : BitVec 4) (x y : Index) (n : BitVec 4) :
    fieldC (wordXYN c x y n) = c.toNat := by
  rw [fieldC, wordXYN, extract_append_high]
@[simp] theorem fieldX_wordXYN (c : BitVec 4) (x y : Index) (n : BitVec 4) : fieldX (wordXYN c x y n) = x := by
  rw [fieldX, wordXYN, extract_append_low _ _ _ _ (by decide), extract_append_high, toFin_nibble]
@[simp] theorem fieldY_wordXYN (c : BitVec 4) (x y : Index) (n : BitVec 4) : fieldY (wordXYN c x y n) = y := by
  rw [fieldY, wordXYN, extract_append_low _ _ _ _ (by decide), extract_append_low _ _ _ _ (by decide),
    extract_append_high, toFin_nibble]
@[simp] theorem fieldN_wordXYN (c : BitVec 4) (x y : Index) (n : BitVec 4) : fieldN (wordXYN c x y n) = n.toFin := by
  rw [fieldN, wordXYN, extract_append_low _ _ _ _ (by decide), extract_append_low _ _ _ _ (by decide),
    extract_append_low _ _ _ _ (by decide), extract_whole]

/-- A word is its class and its nnn. -/
theorem word_eq_wordA (w : Word) : w = wordA (w.extractLsb' 12 4) (fieldNNN w) := by
  apply BitVec.eq_of_getLsbD_eq
  intro i hi
  simp only [wordA, fieldNNN, BitVec.getLsbD_append, BitVec.getLsbD_extractLsb']
  by_cases h : i < 12
  · simp [h]
  · simp [h, show i - 12 < 4 by omega, show 12 + (i - 12) = i by omega]

/-- A word is its class, x and kk. -/
theorem word_eq_wordXK (w : Word) : w = wordXK (w.extractLsb' 12 4) (fieldX w) (fieldKK w) := by
  apply BitVec.eq_of_getLsbD_eq
  intro i hi
  simp only [wordXK, nibble, fieldX, fieldKK, BitVec.ofFin_toFin, BitVec.getLsbD_append,
    BitVec.getLsbD_extractLsb']
  by_cases h : i < 8
  · simp [h, show i < 12 by omega]
  · by_cases h' : i < 12
    · simp [h, h', show i - 8 < 4 by omega, show 8 + (i - 8) = i by omega]
    · simp [h', show i - 12 < 4 by omega, show 12 + (i - 12) = i by omega]

/-- A word is its class, x, y and n. -/
theorem word_eq_wordXYN (w : Word) :
    w = wordXYN (w.extractLsb' 12 4) (fieldX w) (fieldY w) (w.extractLsb' 0 4) := by
  apply BitVec.eq_of_getLsbD_eq
  intro i hi
  simp only [wordXYN, nibble, fieldX, fieldY, BitVec.ofFin_toFin, BitVec.getLsbD_append,
    BitVec.getLsbD_extractLsb']
  by_cases h : i < 4
  · simp [h, show i < 12 by omega, show i < 8 by omega]
  · by_cases h' : i < 8
    · simp [h, h', show i < 12 by omega, show i - 4 < 4 by omega, show 4 + (i - 4) = i by omega]
    · by_cases h'' : i < 12
      · simp [h', h'', show i - 8 < 4 by omega, show 8 + (i - 8) = i by omega]
      · simp [h'', show i - 12 < 4 by omega, show 12 + (i - 12) = i by omega]

/-- The class is a number below 16. -/
theorem fieldC_lt (w : Word) : fieldC w < 16 := (w.extractLsb' 12 4).isLt

theorem wordOfBytes_high_low (w : Word) : wordOfBytes (highByte w) (lowByte w) = w := by
  apply BitVec.eq_of_getLsbD_eq
  intro i hi
  simp only [wordOfBytes, highByte, lowByte, BitVec.getLsbD_append, BitVec.getLsbD_extractLsb']
  by_cases h : i < 8
  · simp [h]
  · simp [h, show 8 + (i - 8) = i by omega, show i - 8 < 8 by omega]

/-- Decoding the two bytes of a word is decoding the word. -/
theorem decodeBytes_of_word (w : Word) (rest : List Byte) :
    decodeBytes (highByte w :: lowByte w :: rest) =
      match decode w with
      | .ok i => .ok (i, rest)
      | .error e => .error e := by
  cases h : decode w <;> simp only [decodeBytes, wordOfBytes_high_low, h]

end Sys2Proof
end

