-- ==== Sys2Proof/Laws/State.lean ====
section
/-! SUPPORT. The small lemmas of the state updates: what each update leaves of each field, and of each accessor. -/

namespace Sys2Proof.Machine

section setReg

@[simp] theorem State.i_setReg (s : State) (x : Index) (b : Byte) : (s.setReg x b).i = s.i := rfl
@[simp] theorem State.effAddr_setReg (s : State) (x : Index) (b : Byte) (k : Nat) : (s.setReg x b).effAddr k = s.effAddr k := rfl
@[simp] theorem State.pc_setReg (s : State) (x : Index) (b : Byte) : (s.setReg x b).pc = s.pc := rfl
@[simp] theorem State.stack_setReg (s : State) (x : Index) (b : Byte) : (s.setReg x b).stack = s.stack := rfl
@[simp] theorem State.stackEntry_setReg (s : State) (x : Index) (b : Byte) (k : Index) : (s.setReg x b).stackEntry k = s.stackEntry k := rfl
@[simp] theorem State.sp_setReg (s : State) (x : Index) (b : Byte) : (s.setReg x b).sp = s.sp := rfl
@[simp] theorem State.dt_setReg (s : State) (x : Index) (b : Byte) : (s.setReg x b).dt = s.dt := rfl
@[simp] theorem State.st_setReg (s : State) (x : Index) (b : Byte) : (s.setReg x b).st = s.st := rfl
@[simp] theorem State.mem_setReg (s : State) (x : Index) (b : Byte) : (s.setReg x b).mem = s.mem := rfl
@[simp] theorem State.memRead_setReg (s : State) (x : Index) (b : Byte) (addr : Word) : (s.setReg x b).memRead addr = s.memRead addr := rfl
@[simp] theorem State.fb_setReg (s : State) (x : Index) (b : Byte) : (s.setReg x b).fb = s.fb := rfl
@[simp] theorem State.key_setReg (s : State) (x : Index) (b : Byte) : (s.setReg x b).key = s.key := rfl
@[simp] theorem State.keyPressed_setReg (s : State) (x : Index) (b : Byte) (k : Index) : (s.setReg x b).keyPressed k = s.keyPressed k := rfl
@[simp] theorem State.fault_setReg (s : State) (x : Index) (b : Byte) : (s.setReg x b).fault = s.fault := rfl
@[simp] theorem State.draws_setReg (s : State) (x : Index) (b : Byte) : (s.setReg x b).draws = s.draws := rfl

end setReg

section setI

@[simp] theorem State.v_setI (s : State) (a : Word) : (s.setI a).v = s.v := rfl
@[simp] theorem State.reg_setI (s : State) (a : Word) (r : Index) : (s.setI a).reg r = s.reg r := rfl
@[simp] theorem State.pc_setI (s : State) (a : Word) : (s.setI a).pc = s.pc := rfl
@[simp] theorem State.stack_setI (s : State) (a : Word) : (s.setI a).stack = s.stack := rfl
@[simp] theorem State.stackEntry_setI (s : State) (a : Word) (k : Index) : (s.setI a).stackEntry k = s.stackEntry k := rfl
@[simp] theorem State.sp_setI (s : State) (a : Word) : (s.setI a).sp = s.sp := rfl
@[simp] theorem State.dt_setI (s : State) (a : Word) : (s.setI a).dt = s.dt := rfl
@[simp] theorem State.st_setI (s : State) (a : Word) : (s.setI a).st = s.st := rfl
@[simp] theorem State.mem_setI (s : State) (a : Word) : (s.setI a).mem = s.mem := rfl
@[simp] theorem State.memRead_setI (s : State) (a : Word) (addr : Word) : (s.setI a).memRead addr = s.memRead addr := rfl
@[simp] theorem State.fb_setI (s : State) (a : Word) : (s.setI a).fb = s.fb := rfl
@[simp] theorem State.key_setI (s : State) (a : Word) : (s.setI a).key = s.key := rfl
@[simp] theorem State.keyPressed_setI (s : State) (a : Word) (k : Index) : (s.setI a).keyPressed k = s.keyPressed k := rfl
@[simp] theorem State.fault_setI (s : State) (a : Word) : (s.setI a).fault = s.fault := rfl
@[simp] theorem State.draws_setI (s : State) (a : Word) : (s.setI a).draws = s.draws := rfl

end setI

section setPc

@[simp] theorem State.v_setPc (s : State) (a : Word) : (s.setPc a).v = s.v := rfl
@[simp] theorem State.reg_setPc (s : State) (a : Word) (r : Index) : (s.setPc a).reg r = s.reg r := rfl
@[simp] theorem State.i_setPc (s : State) (a : Word) : (s.setPc a).i = s.i := rfl
@[simp] theorem State.effAddr_setPc (s : State) (a : Word) (k : Nat) : (s.setPc a).effAddr k = s.effAddr k := rfl
@[simp] theorem State.stack_setPc (s : State) (a : Word) : (s.setPc a).stack = s.stack := rfl
@[simp] theorem State.stackEntry_setPc (s : State) (a : Word) (k : Index) : (s.setPc a).stackEntry k = s.stackEntry k := rfl
@[simp] theorem State.sp_setPc (s : State) (a : Word) : (s.setPc a).sp = s.sp := rfl
@[simp] theorem State.dt_setPc (s : State) (a : Word) : (s.setPc a).dt = s.dt := rfl
@[simp] theorem State.st_setPc (s : State) (a : Word) : (s.setPc a).st = s.st := rfl
@[simp] theorem State.mem_setPc (s : State) (a : Word) : (s.setPc a).mem = s.mem := rfl
@[simp] theorem State.memRead_setPc (s : State) (a : Word) (addr : Word) : (s.setPc a).memRead addr = s.memRead addr := rfl
@[simp] theorem State.fb_setPc (s : State) (a : Word) : (s.setPc a).fb = s.fb := rfl
@[simp] theorem State.key_setPc (s : State) (a : Word) : (s.setPc a).key = s.key := rfl
@[simp] theorem State.keyPressed_setPc (s : State) (a : Word) (k : Index) : (s.setPc a).keyPressed k = s.keyPressed k := rfl
@[simp] theorem State.fault_setPc (s : State) (a : Word) : (s.setPc a).fault = s.fault := rfl
@[simp] theorem State.draws_setPc (s : State) (a : Word) : (s.setPc a).draws = s.draws := rfl

end setPc

section memWrite

@[simp] theorem State.v_memWrite (s : State) (a : Word) (b : Byte) : (s.memWrite a b).v = s.v := rfl
@[simp] theorem State.reg_memWrite (s : State) (a : Word) (b : Byte) (r : Index) : (s.memWrite a b).reg r = s.reg r := rfl
@[simp] theorem State.i_memWrite (s : State) (a : Word) (b : Byte) : (s.memWrite a b).i = s.i := rfl
@[simp] theorem State.effAddr_memWrite (s : State) (a : Word) (b : Byte) (k : Nat) : (s.memWrite a b).effAddr k = s.effAddr k := rfl
@[simp] theorem State.pc_memWrite (s : State) (a : Word) (b : Byte) : (s.memWrite a b).pc = s.pc := rfl
@[simp] theorem State.stack_memWrite (s : State) (a : Word) (b : Byte) : (s.memWrite a b).stack = s.stack := rfl
@[simp] theorem State.stackEntry_memWrite (s : State) (a : Word) (b : Byte) (k : Index) : (s.memWrite a b).stackEntry k = s.stackEntry k := rfl
@[simp] theorem State.sp_memWrite (s : State) (a : Word) (b : Byte) : (s.memWrite a b).sp = s.sp := rfl
@[simp] theorem State.dt_memWrite (s : State) (a : Word) (b : Byte) : (s.memWrite a b).dt = s.dt := rfl
@[simp] theorem State.st_memWrite (s : State) (a : Word) (b : Byte) : (s.memWrite a b).st = s.st := rfl
@[simp] theorem State.fb_memWrite (s : State) (a : Word) (b : Byte) : (s.memWrite a b).fb = s.fb := rfl
@[simp] theorem State.key_memWrite (s : State) (a : Word) (b : Byte) : (s.memWrite a b).key = s.key := rfl
@[simp] theorem State.keyPressed_memWrite (s : State) (a : Word) (b : Byte) (k : Index) : (s.memWrite a b).keyPressed k = s.keyPressed k := rfl
@[simp] theorem State.fault_memWrite (s : State) (a : Word) (b : Byte) : (s.memWrite a b).fault = s.fault := rfl
@[simp] theorem State.draws_memWrite (s : State) (a : Word) (b : Byte) : (s.memWrite a b).draws = s.draws := rfl

end memWrite

section advance

@[simp] theorem State.v_advance (s : State) : (s.advance).v = s.v := rfl
@[simp] theorem State.reg_advance (s : State) (r : Index) : (s.advance).reg r = s.reg r := rfl
@[simp] theorem State.i_advance (s : State) : (s.advance).i = s.i := rfl
@[simp] theorem State.effAddr_advance (s : State) (k : Nat) : (s.advance).effAddr k = s.effAddr k := rfl
@[simp] theorem State.stack_advance (s : State) : (s.advance).stack = s.stack := rfl
@[simp] theorem State.stackEntry_advance (s : State) (k : Index) : (s.advance).stackEntry k = s.stackEntry k := rfl
@[simp] theorem State.sp_advance (s : State) : (s.advance).sp = s.sp := rfl
@[simp] theorem State.dt_advance (s : State) : (s.advance).dt = s.dt := rfl
@[simp] theorem State.st_advance (s : State) : (s.advance).st = s.st := rfl
@[simp] theorem State.mem_advance (s : State) : (s.advance).mem = s.mem := rfl
@[simp] theorem State.memRead_advance (s : State) (addr : Word) : (s.advance).memRead addr = s.memRead addr := rfl
@[simp] theorem State.fb_advance (s : State) : (s.advance).fb = s.fb := rfl
@[simp] theorem State.key_advance (s : State) : (s.advance).key = s.key := rfl
@[simp] theorem State.keyPressed_advance (s : State) (k : Index) : (s.advance).keyPressed k = s.keyPressed k := rfl
@[simp] theorem State.fault_advance (s : State) : (s.advance).fault = s.fault := rfl
@[simp] theorem State.draws_advance (s : State) : (s.advance).draws = s.draws := rfl

end advance

section skipIf

@[simp] theorem State.v_skipIf (s : State) (c : Bool) : (s.skipIf c).v = s.v := by
  unfold State.skipIf; split <;> rfl
@[simp] theorem State.reg_skipIf (s : State) (c : Bool) (r : Index) : (s.skipIf c).reg r = s.reg r := by
  unfold State.skipIf; split <;> rfl
@[simp] theorem State.i_skipIf (s : State) (c : Bool) : (s.skipIf c).i = s.i := by
  unfold State.skipIf; split <;> rfl
@[simp] theorem State.effAddr_skipIf (s : State) (c : Bool) (k : Nat) : (s.skipIf c).effAddr k = s.effAddr k := by
  unfold State.skipIf; split <;> rfl
@[simp] theorem State.stack_skipIf (s : State) (c : Bool) : (s.skipIf c).stack = s.stack := by
  unfold State.skipIf; split <;> rfl
@[simp] theorem State.stackEntry_skipIf (s : State) (c : Bool) (k : Index) : (s.skipIf c).stackEntry k = s.stackEntry k := by
  unfold State.skipIf; split <;> rfl
@[simp] theorem State.sp_skipIf (s : State) (c : Bool) : (s.skipIf c).sp = s.sp := by
  unfold State.skipIf; split <;> rfl
@[simp] theorem State.dt_skipIf (s : State) (c : Bool) : (s.skipIf c).dt = s.dt := by
  unfold State.skipIf; split <;> rfl
@[simp] theorem State.st_skipIf (s : State) (c : Bool) : (s.skipIf c).st = s.st := by
  unfold State.skipIf; split <;> rfl
@[simp] theorem State.mem_skipIf (s : State) (c : Bool) : (s.skipIf c).mem = s.mem := by
  unfold State.skipIf; split <;> rfl
@[simp] theorem State.memRead_skipIf (s : State) (c : Bool) (addr : Word) : (s.skipIf c).memRead addr = s.memRead addr := by
  unfold State.skipIf; split <;> rfl
@[simp] theorem State.fb_skipIf (s : State) (c : Bool) : (s.skipIf c).fb = s.fb := by
  unfold State.skipIf; split <;> rfl
@[simp] theorem State.key_skipIf (s : State) (c : Bool) : (s.skipIf c).key = s.key := by
  unfold State.skipIf; split <;> rfl
@[simp] theorem State.keyPressed_skipIf (s : State) (c : Bool) (k : Index) : (s.skipIf c).keyPressed k = s.keyPressed k := by
  unfold State.skipIf; split <;> rfl
@[simp] theorem State.fault_skipIf (s : State) (c : Bool) : (s.skipIf c).fault = s.fault := by
  unfold State.skipIf; split <;> rfl
@[simp] theorem State.draws_skipIf (s : State) (c : Bool) : (s.skipIf c).draws = s.draws := by
  unfold State.skipIf; split <;> rfl

end skipIf

section setResultThenFlag

@[simp] theorem State.i_setResultThenFlag (s : State) (x : Index) (b : Byte) (c : Bool) : (s.setResultThenFlag x b c).i = s.i := rfl
@[simp] theorem State.effAddr_setResultThenFlag (s : State) (x : Index) (b : Byte) (c : Bool) (k : Nat) : (s.setResultThenFlag x b c).effAddr k = s.effAddr k := rfl
@[simp] theorem State.pc_setResultThenFlag (s : State) (x : Index) (b : Byte) (c : Bool) : (s.setResultThenFlag x b c).pc = s.pc := rfl
@[simp] theorem State.stack_setResultThenFlag (s : State) (x : Index) (b : Byte) (c : Bool) : (s.setResultThenFlag x b c).stack = s.stack := rfl
@[simp] theorem State.stackEntry_setResultThenFlag (s : State) (x : Index) (b : Byte) (c : Bool) (k : Index) : (s.setResultThenFlag x b c).stackEntry k = s.stackEntry k := rfl
@[simp] theorem State.sp_setResultThenFlag (s : State) (x : Index) (b : Byte) (c : Bool) : (s.setResultThenFlag x b c).sp = s.sp := rfl
@[simp] theorem State.dt_setResultThenFlag (s : State) (x : Index) (b : Byte) (c : Bool) : (s.setResultThenFlag x b c).dt = s.dt := rfl
@[simp] theorem State.st_setResultThenFlag (s : State) (x : Index) (b : Byte) (c : Bool) : (s.setResultThenFlag x b c).st = s.st := rfl
@[simp] theorem State.mem_setResultThenFlag (s : State) (x : Index) (b : Byte) (c : Bool) : (s.setResultThenFlag x b c).mem = s.mem := rfl
@[simp] theorem State.memRead_setResultThenFlag (s : State) (x : Index) (b : Byte) (c : Bool) (addr : Word) : (s.setResultThenFlag x b c).memRead addr = s.memRead addr := rfl
@[simp] theorem State.fb_setResultThenFlag (s : State) (x : Index) (b : Byte) (c : Bool) : (s.setResultThenFlag x b c).fb = s.fb := rfl
@[simp] theorem State.key_setResultThenFlag (s : State) (x : Index) (b : Byte) (c : Bool) : (s.setResultThenFlag x b c).key = s.key := rfl
@[simp] theorem State.keyPressed_setResultThenFlag (s : State) (x : Index) (b : Byte) (c : Bool) (k : Index) : (s.setResultThenFlag x b c).keyPressed k = s.keyPressed k := rfl
@[simp] theorem State.fault_setResultThenFlag (s : State) (x : Index) (b : Byte) (c : Bool) : (s.setResultThenFlag x b c).fault = s.fault := rfl
@[simp] theorem State.draws_setResultThenFlag (s : State) (x : Index) (b : Byte) (c : Bool) : (s.setResultThenFlag x b c).draws = s.draws := rfl

end setResultThenFlag

section tick

@[simp] theorem State.v_tick (s : State) : (s.tick).v = s.v := rfl
@[simp] theorem State.reg_tick (s : State) (r : Index) : (s.tick).reg r = s.reg r := rfl
@[simp] theorem State.i_tick (s : State) : (s.tick).i = s.i := rfl
@[simp] theorem State.effAddr_tick (s : State) (k : Nat) : (s.tick).effAddr k = s.effAddr k := rfl
@[simp] theorem State.pc_tick (s : State) : (s.tick).pc = s.pc := rfl
@[simp] theorem State.stack_tick (s : State) : (s.tick).stack = s.stack := rfl
@[simp] theorem State.stackEntry_tick (s : State) (k : Index) : (s.tick).stackEntry k = s.stackEntry k := rfl
@[simp] theorem State.sp_tick (s : State) : (s.tick).sp = s.sp := rfl
@[simp] theorem State.mem_tick (s : State) : (s.tick).mem = s.mem := rfl
@[simp] theorem State.memRead_tick (s : State) (addr : Word) : (s.tick).memRead addr = s.memRead addr := rfl
@[simp] theorem State.fb_tick (s : State) : (s.tick).fb = s.fb := rfl
@[simp] theorem State.key_tick (s : State) : (s.tick).key = s.key := rfl
@[simp] theorem State.keyPressed_tick (s : State) (k : Index) : (s.tick).keyPressed k = s.keyPressed k := rfl
@[simp] theorem State.fault_tick (s : State) : (s.tick).fault = s.fault := rfl
@[simp] theorem State.draws_tick (s : State) : (s.tick).draws = s.draws := rfl

end tick

section load

@[simp] theorem State.v_load (s : State) (rom : List Byte) : (s.load rom).v = s.v := by
  unfold State.load; split <;> rfl
@[simp] theorem State.reg_load (s : State) (rom : List Byte) (r : Index) : (s.load rom).reg r = s.reg r := by
  unfold State.load; split <;> rfl
@[simp] theorem State.i_load (s : State) (rom : List Byte) : (s.load rom).i = s.i := by
  unfold State.load; split <;> rfl
@[simp] theorem State.effAddr_load (s : State) (rom : List Byte) (k : Nat) : (s.load rom).effAddr k = s.effAddr k := by
  unfold State.load; split <;> rfl
@[simp] theorem State.pc_load (s : State) (rom : List Byte) : (s.load rom).pc = s.pc := by
  unfold State.load; split <;> rfl
@[simp] theorem State.stack_load (s : State) (rom : List Byte) : (s.load rom).stack = s.stack := by
  unfold State.load; split <;> rfl
@[simp] theorem State.stackEntry_load (s : State) (rom : List Byte) (k : Index) : (s.load rom).stackEntry k = s.stackEntry k := by
  unfold State.load; split <;> rfl
@[simp] theorem State.sp_load (s : State) (rom : List Byte) : (s.load rom).sp = s.sp := by
  unfold State.load; split <;> rfl
@[simp] theorem State.dt_load (s : State) (rom : List Byte) : (s.load rom).dt = s.dt := by
  unfold State.load; split <;> rfl
@[simp] theorem State.st_load (s : State) (rom : List Byte) : (s.load rom).st = s.st := by
  unfold State.load; split <;> rfl
@[simp] theorem State.fb_load (s : State) (rom : List Byte) : (s.load rom).fb = s.fb := by
  unfold State.load; split <;> rfl
@[simp] theorem State.key_load (s : State) (rom : List Byte) : (s.load rom).key = s.key := by
  unfold State.load; split <;> rfl
@[simp] theorem State.keyPressed_load (s : State) (rom : List Byte) (k : Index) : (s.load rom).keyPressed k = s.keyPressed k := by
  unfold State.load; split <;> rfl
@[simp] theorem State.fault_load (s : State) (rom : List Byte) : (s.load rom).fault = s.fault := by
  unfold State.load; split <;> rfl
@[simp] theorem State.draws_load (s : State) (rom : List Byte) : (s.load rom).draws = s.draws := by
  unfold State.load; split <;> rfl

end load

section setKey

@[simp] theorem State.v_setKey (s : State) (k : Nat) (p : Bool) : (s.setKey k p).v = s.v := by
  unfold State.setKey; split <;> rfl
@[simp] theorem State.reg_setKey (s : State) (k : Nat) (p : Bool) (r : Index) : (s.setKey k p).reg r = s.reg r := by
  unfold State.setKey; split <;> rfl
@[simp] theorem State.i_setKey (s : State) (k : Nat) (p : Bool) : (s.setKey k p).i = s.i := by
  unfold State.setKey; split <;> rfl
@[simp] theorem State.effAddr_setKey (s : State) (k : Nat) (p : Bool) (j : Nat) : (s.setKey k p).effAddr j = s.effAddr j := by
  unfold State.setKey; split <;> rfl
@[simp] theorem State.pc_setKey (s : State) (k : Nat) (p : Bool) : (s.setKey k p).pc = s.pc := by
  unfold State.setKey; split <;> rfl
@[simp] theorem State.stack_setKey (s : State) (k : Nat) (p : Bool) : (s.setKey k p).stack = s.stack := by
  unfold State.setKey; split <;> rfl
@[simp] theorem State.stackEntry_setKey (s : State) (k : Nat) (p : Bool) (j : Index) : (s.setKey k p).stackEntry j = s.stackEntry j := by
  unfold State.setKey; split <;> rfl
@[simp] theorem State.sp_setKey (s : State) (k : Nat) (p : Bool) : (s.setKey k p).sp = s.sp := by
  unfold State.setKey; split <;> rfl
@[simp] theorem State.dt_setKey (s : State) (k : Nat) (p : Bool) : (s.setKey k p).dt = s.dt := by
  unfold State.setKey; split <;> rfl
@[simp] theorem State.st_setKey (s : State) (k : Nat) (p : Bool) : (s.setKey k p).st = s.st := by
  unfold State.setKey; split <;> rfl
@[simp] theorem State.mem_setKey (s : State) (k : Nat) (p : Bool) : (s.setKey k p).mem = s.mem := by
  unfold State.setKey; split <;> rfl
@[simp] theorem State.memRead_setKey (s : State) (k : Nat) (p : Bool) (addr : Word) : (s.setKey k p).memRead addr = s.memRead addr := by
  unfold State.setKey; split <;> rfl
@[simp] theorem State.fb_setKey (s : State) (k : Nat) (p : Bool) : (s.setKey k p).fb = s.fb := by
  unfold State.setKey; split <;> rfl
@[simp] theorem State.fault_setKey (s : State) (k : Nat) (p : Bool) : (s.setKey k p).fault = s.fault := by
  unfold State.setKey; split <;> rfl
@[simp] theorem State.draws_setKey (s : State) (k : Nat) (p : Bool) : (s.setKey k p).draws = s.draws := by
  unfold State.setKey; split <;> rfl

end setKey

/-! The changed field of each update. -/

@[simp] theorem State.i_setI (s : State) (a : Word) : (s.setI a).i = a := rfl
@[simp] theorem State.pc_setPc (s : State) (a : Word) : (s.setPc a).pc = a := rfl
@[simp] theorem State.pc_advance (s : State) : s.advance.pc = s.pc + 2 := rfl
@[simp] theorem State.pc_skipIf (s : State) (c : Bool) : (s.skipIf c).pc = if c then s.pc + 2 else s.pc := by
  unfold State.skipIf; split <;> rfl
@[simp] theorem State.dt_tick (s : State) : s.tick.dt = countDown s.dt := rfl
@[simp] theorem State.st_tick (s : State) : s.tick.st = countDown s.st := rfl
@[simp] theorem State.mem_memWrite (s : State) (a : Word) (b : Byte) :
    (s.memWrite a b).mem = s.mem.write a.toNat b := rfl

/-- A register write is seen at its index and nowhere else. -/
@[simp] theorem State.reg_setReg (s : State) (x : Index) (b : Byte) (r : Index) :
    (s.setReg x b).reg r = if r = x then b else s.reg r := by
  simp only [State.reg, State.setReg, Vector.getElem_set, Fin.ext_iff, eq_comm]

/-- The flag is what VF holds, the result is what V[x] holds unless x is VF (41_alu.md R133). -/
@[simp] theorem State.reg_setResultThenFlag (s : State) (x : Index) (b : Byte) (c : Bool) (r : Index) :
    (s.setResultThenFlag x b c).reg r = if r = vf then flagByte c else if r = x then b else s.reg r := by
  simp only [State.setResultThenFlag, State.reg_setReg]

/-- Two states with equal fields are equal. -/
theorem State.ext_fields {s t : State} (hv : s.v = t.v) (hi : s.i = t.i) (hpc : s.pc = t.pc)
    (hstack : s.stack = t.stack) (hsp : s.sp = t.sp) (hdt : s.dt = t.dt) (hst : s.st = t.st)
    (hmem : s.mem = t.mem) (hfb : s.fb = t.fb) (hkey : s.key = t.key) (hfault : s.fault = t.fault)
    (hdraws : s.draws = t.draws) : s = t := by
  cases s; cases t; simp_all

/-! The reset state, read through the accessors (10_state.md R41). -/

@[simp] theorem State.reg_reset (r : Index) : State.reset.reg r = 0 := by
  simp [State.reg, State.reset]
@[simp] theorem State.stackEntry_reset (k : Index) : State.reset.stackEntry k = 0 := by
  simp [State.stackEntry, State.reset]
@[simp] theorem State.keyPressed_reset (k : Index) : State.reset.keyPressed k = false := by
  simp [State.keyPressed, State.reset]

end Sys2Proof.Machine
end

