-- ==== Sys2Proof/Laws/Display.lean ====
section
/-! SUPPORT. The framebuffer operations: clearing and toggling one pixel, and what a drawing leaves alone. -/

namespace Sys2Proof.Machine

@[simp] theorem Framebuffer.pixel_clear (row col : Nat) : Framebuffer.clear.pixel row col = false := by
  simp only [Framebuffer.pixel, Framebuffer.clear]
  split <;> simp

theorem Framebuffer.pixel_outside (fb : Framebuffer) {row col : Nat} (h : ¬(row < 32 ∧ col < 64)) :
    fb.pixel row col = false := by
  simp [Framebuffer.pixel, h]

/-- Framebuffers with the same pixels are the same. -/
theorem Framebuffer.ext_pixel {f g : Framebuffer}
    (h : ∀ row col, row < 32 → col < 64 → f.pixel row col = g.pixel row col) : f = g := by
  apply Vector.ext
  intro row hrow
  apply Vector.ext
  intro col hcol
  simpa [Framebuffer.pixel, hrow, hcol] using h row col hrow hcol

/-- Toggling changes exactly the named pixel, and a pixel outside the grid not at all (42_display.md R142). -/
theorem pixel_togglePixel (d : Drawing) (row col r c : Nat) :
    (togglePixel d row col).1.pixel r c =
      if r = row ∧ c = col ∧ row < 32 ∧ col < 64 then !d.1.pixel r c else d.1.pixel r c := by
  by_cases h : row < 32 ∧ col < 64
  · by_cases hin : r < 32 ∧ c < 64
    · simp only [togglePixel, h, Framebuffer.pixel, hin, and_self, dite_true, Vector.getElem_set]
      by_cases hr : row = r
      · subst hr
        by_cases hc : col = c
        · subst hc; simp
        · simp [hc, Ne.symm hc]
      · simp [hr, Ne.symm hr]
    · rw [Framebuffer.pixel_outside _ hin, Framebuffer.pixel_outside _ hin, if_neg]
      rintro ⟨rfl, rfl, h1, h2⟩
      exact hin ⟨h1, h2⟩
  · have : togglePixel d row col = d := by simp [togglePixel, h]
    rw [this, if_neg (fun hh => h hh.2.2)]

/-- Toggling adds to the collision bit whether the pixel was ON (42_display.md R143). -/
theorem collision_togglePixel (d : Drawing) (row col : Nat) :
    (togglePixel d row col).2 = (d.2 || d.1.pixel row col) := by
  by_cases h : row < 32 ∧ col < 64
  · simp [togglePixel, h]
  · simp [togglePixel, h, Framebuffer.pixel_outside _ h]

end Sys2Proof.Machine
end

