-- ==== Sys2Proof/Laws/Memory.lean ====
section
/-! SUPPORT. The laws of memory: read after write, the frame of a write, and the canonical form, which every memory
operation keeps. -/

namespace Sys2Proof.Machine

theorem Memory.lookup_erase (m : Memory) (a c : Nat) :
    (m.erase a).lookup c = if c = a then resetByte a else m.lookup c := by
  induction m with
  | nil => by_cases h : c = a <;> simp [Memory.erase, Memory.lookup, h]
  | cons e rest ih =>
    obtain ⟨k, b⟩ := e
    simp only [Memory.erase] at ih ⊢
    by_cases hk : k = a
    · subst hk
      simp only [List.filter_cons, bne_self_eq_false, Bool.false_eq_true, if_false, Memory.lookup]
      rw [ih]
      by_cases hc : c = k
      · simp [hc]
      · simp [hc, Ne.symm hc]
    · simp only [List.filter_cons, bne_iff_ne, ne_eq, hk, not_false_eq_true, if_true, Memory.lookup]
      rw [ih]
      by_cases hc : k = c
      · subst hc; simp [hk]
      · simp [hc]

theorem Memory.lookup_insertCell (m : Memory) (a : Nat) (b : Byte) (c : Nat)
    (h : ∀ e ∈ m, e.1 ≠ a) :
    (m.insertCell a b).lookup c = if c = a then b else m.lookup c := by
  induction m with
  | nil =>
    by_cases hc : c = a
    · simp [Memory.insertCell, Memory.lookup, hc]
    · simp [Memory.insertCell, Memory.lookup, hc, Ne.symm hc]
  | cons e rest ih =>
    obtain ⟨k, d⟩ := e
    have hka : k ≠ a := h (k, d) (by simp)
    have ih := ih (fun e he => h e (by simp [he]))
    simp only [Memory.insertCell]
    split
    · by_cases hc : c = a
      · simp [Memory.lookup, hc]
      · simp [Memory.lookup, hc, Ne.symm hc]
    · simp only [Memory.lookup, ih]
      by_cases hc : k = c
      · subst hc; simp [hka]
      · simp [hc]

theorem Memory.mem_erase {m : Memory} {a : Nat} {e : Host.Cell} :
    e ∈ m.erase a ↔ e ∈ m ∧ e.1 ≠ a := by
  simp [Memory.erase]

theorem Memory.mem_insertCell {m : Memory} {a : Nat} {b : Byte} {e : Host.Cell} :
    e ∈ m.insertCell a b ↔ e = (a, b) ∨ e ∈ m := by
  induction m with
  | nil => simp [Memory.insertCell]
  | cons d rest ih =>
    simp only [Memory.insertCell]
    split
    · simp
    · simp only [List.mem_cons, ih]; tauto

/-- READ AFTER WRITE, and the frame of a write, for every memory (00_scope.md R10, 20_memory.md R61). -/
@[simp] theorem Memory.read_write (m : Memory) (a c : Nat) (b : Byte) :
    (m.write a b).read c = if c % Config.memSize = a % Config.memSize then b else m.read c := by
  simp only [Memory.read, Memory.write]
  split
  · next h => rw [Memory.lookup_erase, h]
  · rw [Memory.lookup_insertCell _ _ _ _ (fun e he => (Memory.mem_erase.mp he).2), Memory.lookup_erase]
    split <;> simp_all

@[simp] theorem Memory.read_nil (a : Nat) : Memory.read [] a = resetByte (a % Config.memSize) := rfl

@[simp] theorem Memory.read_mod (m : Memory) (a : Nat) : m.read (a % Config.memSize) = m.read a := by
  simp [Memory.read]

/-- What the canonical form says. -/
theorem Memory.wf_iff (m : Memory) :
    m.wf = true ↔ m.Pairwise (fun c d => c.1 < d.1) ∧
      ∀ e ∈ m, e.1 < Config.memSize ∧ e.2 ≠ resetByte e.1 := by
  simp [Memory.wf]

@[simp] theorem Memory.wf_nil : Memory.wf [] = true := by simp [Memory.wf]

theorem Memory.pairwise_insertCell {m : Memory} {a : Nat} {b : Byte}
    (hm : m.Pairwise (fun c d => c.1 < d.1)) (ha : ∀ e ∈ m, e.1 ≠ a) :
    (m.insertCell a b).Pairwise (fun c d => c.1 < d.1) := by
  induction m with
  | nil => simp [Memory.insertCell]
  | cons e rest ih =>
    obtain ⟨k, d⟩ := e
    obtain ⟨hhead, htail⟩ := List.pairwise_cons.mp hm
    have hka : k ≠ a := ha (k, d) (by simp)
    simp only [Memory.insertCell]
    split
    · next hlt =>
      refine List.pairwise_cons.mpr ⟨fun x hx => ?_, hm⟩
      rcases List.mem_cons.mp hx with rfl | hx
      · exact hlt
      · exact lt_trans hlt (hhead x hx)
    · next hge =>
      refine List.pairwise_cons.mpr ⟨fun x hx => ?_, ih htail (fun e he => ha e (by simp [he]))⟩
      rcases Memory.mem_insertCell.mp hx with rfl | hx
      · simp only; omega
      · exact hhead x hx

/-- A write keeps the canonical form. -/
theorem Memory.wf_write {m : Memory} (h : m.wf = true) (a : Nat) (b : Byte) : (m.write a b).wf = true := by
  rw [Memory.wf_iff] at h ⊢
  have herase : (m.erase (a % Config.memSize)).Pairwise (fun c d => c.1 < d.1) := h.1.filter _
  simp only [Memory.write]
  split
  · exact ⟨herase, fun e he => h.2 e (Memory.mem_erase.mp he).1⟩
  · next hb =>
    refine ⟨Memory.pairwise_insertCell herase (fun e he => (Memory.mem_erase.mp he).2), fun e he => ?_⟩
    rcases Memory.mem_insertCell.mp he with rfl | he
    · exact ⟨Nat.mod_lt _ (by decide), hb⟩
    · exact h.2 e (Memory.mem_erase.mp he).1

/-- A run of writes keeps the canonical form. -/
theorem Memory.wf_writeBytes {m : Memory} (h : m.wf = true) (a : Nat) (bs : List Byte) :
    (m.writeBytes a bs).wf = true := by
  induction bs generalizing m a with
  | nil => exact h
  | cons b rest ih => exact ih (Memory.wf_write h a b) (a + 1)

/-- What a run of writes that does not wrap leaves at each address. -/
theorem Memory.read_writeBytes (m : Memory) (a : Nat) (bs : List Byte) (hfit : a + bs.length ≤ Config.memSize)
    (c : Nat) (hc : c < Config.memSize) :
    (m.writeBytes a bs).read c =
      if h : a ≤ c ∧ c < a + bs.length then bs[c - a]'(by omega) else m.read c := by
  induction bs generalizing m a with
  | nil =>
    have h : ¬(a ≤ c ∧ c < a + ([] : List Byte).length) := by simp
    rw [dif_neg h]; rfl
  | cons b rest ih =>
    simp only [List.length_cons] at hfit
    simp only [Memory.writeBytes]
    rw [ih (m.write a b) (a + 1) (by omega)]
    have ha : a % Config.memSize = a := Nat.mod_eq_of_lt (by omega)
    have hcm : c % Config.memSize = c := Nat.mod_eq_of_lt hc
    rcases lt_trichotomy c a with h | h | h
    · rw [dif_neg (by omega), dif_neg (by omega), Memory.read_write, ha, hcm, if_neg (by omega)]
    · subst h
      rw [dif_neg (by omega), dif_pos (by simp), Memory.read_write, if_pos rfl]
      simp
    · by_cases hin : c < a + 1 + rest.length
      · rw [dif_pos (by omega), dif_pos (by simp only [List.length_cons]; omega)]
        have : c - a = (c - (a + 1)) + 1 := by omega
        simp [this]
      · rw [dif_neg (by omega), dif_neg (by simp only [List.length_cons]; omega), Memory.read_write, ha, hcm,
          if_neg (by omega)]

end Sys2Proof.Machine
end

