-- ==== Sys2Proof/Laws/Ops.lean ====
section
/-! SUPPORT. One lemma for each shared operation, saying everything it can do. -/

namespace Sys2Proof.Machine

/-! Memory through the state. -/

/-- Read after write through Mask, and the frame of a write (00_scope.md R10, 20_memory.md R51). -/
@[simp] theorem State.memRead_memWrite (s : State) (a c : Word) (b : Byte) :
    (s.memWrite a b).memRead c = if mask c = mask a then b else s.memRead c :=
  Memory.read_write s.mem a.toNat c.toNat b

theorem State.memRead_congr_mask (s : State) {a c : Word} (h : mask a = mask c) : s.memRead a = s.memRead c := by
  simp only [State.memRead, Memory.read]
  rw [show a.toNat % Config.memSize = c.toNat % Config.memSize from h]

theorem State.wf_memWrite {s : State} (h : s.mem.wf = true) (a : Word) (b : Byte) :
    (s.memWrite a b).mem.wf = true := Memory.wf_write h _ _

theorem mask_lt (a : Word) : mask a < Config.memSize := Nat.mod_lt _ (by decide)

/-- Sixteen consecutive address values name sixteen different bytes. -/
theorem mask_effAddr_inj (s : State) {j k : Nat} (hj : j < 16) (hk : k < 16)
    (h : mask (s.effAddr j) = mask (s.effAddr k)) : j = k := by
  simp only [mask, State.effAddr, BitVec.toNat_add, BitVec.toNat_ofNat, Config.memSize] at h
  omega

/-! The bulk copies (44_index_memory.md R184, R185). -/

theorem State.storeRegs_eq (s : State) (n : Nat) : ∃ m, s.storeRegs n = { s with mem := m } := by
  induction n with
  | zero => exact ⟨s.mem, rfl⟩
  | succ k ih =>
    obtain ⟨m, hm⟩ := ih
    exact ⟨(State.memWrite { s with mem := m } (s.effAddr k) (s.reg (Fin.ofNat 16 k))).mem, by
      simp only [State.storeRegs, hm]; rfl⟩

theorem State.storeRegs_succ (s : State) (k : Nat) :
    s.storeRegs (k + 1) = (s.storeRegs k).memWrite (s.effAddr k) (s.reg (Fin.ofNat 16 k)) := by
  obtain ⟨m, hm⟩ := s.storeRegs_eq k
  simp only [State.storeRegs, hm]; rfl

/-- The bulk store leaves every byte outside the stored ones. -/
theorem State.memRead_storeRegs_frame (s : State) (n : Nat) (a : Word)
    (h : ∀ k, k < n → mask a ≠ mask (s.effAddr k)) : (s.storeRegs n).memRead a = s.memRead a := by
  induction n with
  | zero => rfl
  | succ k ih =>
    rw [State.storeRegs_succ, State.memRead_memWrite, if_neg (h k (by omega))]
    exact ih (fun j hj => h j (by omega))

/-- The bulk store puts V[k] at I + k. -/
theorem State.memRead_storeRegs_stored (s : State) (n k : Nat) (hk : k < n) (hn : n ≤ 16) :
    (s.storeRegs n).memRead (s.effAddr k) = s.reg (Fin.ofNat 16 k) := by
  induction n with
  | zero => omega
  | succ j ih =>
    rw [State.storeRegs_succ, State.memRead_memWrite]
    by_cases hkj : k = j
    · subst hkj; simp
    · rw [if_neg (fun h => hkj (mask_effAddr_inj s (by omega) (by omega) h))]
      exact ih (by omega) (by omega)

theorem State.wf_storeRegs {s : State} (h : s.mem.wf = true) (n : Nat) : (s.storeRegs n).mem.wf = true := by
  induction n with
  | zero => exact h
  | succ k ih => rw [State.storeRegs_succ]; exact State.wf_memWrite ih _ _

theorem State.loadRegs_eq (s : State) (n : Nat) : ∃ u, s.loadRegs n = { s with v := u } := by
  induction n with
  | zero => exact ⟨s.v, rfl⟩
  | succ k ih =>
    obtain ⟨u, hu⟩ := ih
    exact ⟨(State.setReg { s with v := u } (Fin.ofNat 16 k) (s.memRead (s.effAddr k))).v, by
      simp only [State.loadRegs, hu]; rfl⟩

theorem State.loadRegs_succ (s : State) (k : Nat) :
    s.loadRegs (k + 1) = (s.loadRegs k).setReg (Fin.ofNat 16 k) (s.memRead (s.effAddr k)) := by
  obtain ⟨u, hu⟩ := s.loadRegs_eq k
  simp only [State.loadRegs, hu]; rfl

/-- The bulk load takes V[k] from I + k for k below n, and leaves the other registers. -/
theorem State.reg_loadRegs (s : State) (n : Nat) (hn : n ≤ 16) (r : Index) :
    (s.loadRegs n).reg r = if r.val < n then s.memRead (s.effAddr r.val) else s.reg r := by
  induction n with
  | zero => simp [State.loadRegs]
  | succ k ih =>
    rw [State.loadRegs_succ, State.reg_setReg, ih (by omega)]
    have hk : (Fin.ofNat 16 k).val = k := by simp [Fin.ofNat, Nat.mod_eq_of_lt (show k < 16 by omega)]
    by_cases hr : r = Fin.ofNat 16 k
    · rw [if_pos hr, hr, hk, if_pos (by omega)]
    · have hne : r.val ≠ k := fun h => hr (Fin.ext (by rw [hk, h]))
      rw [if_neg hr]
      by_cases hlt : r.val < k
      · rw [if_pos hlt, if_pos (by omega)]
      · rw [if_neg hlt, if_neg (by omega)]

/-! Keys (43_keys_timers.md R162, R166). -/

theorem State.keyState_of_lt (s : State) (policy : KeyIndexPolicy) {v : Byte} (h : v.toNat < 16) :
    s.keyState policy v = some (s.keyPressed ⟨v.toNat, h⟩) := by
  simp [State.keyState, h]

/-- What a register value above 15 names under each policy. -/
theorem State.keyState_of_ge (s : State) (policy : KeyIndexPolicy) {v : Byte} (h : ¬v.toNat < 16) :
    s.keyState policy v =
      match policy with
      | .fault => none
      | .lowNibble => some (s.keyPressed (Fin.ofNat 16 v.toNat))
      | .notPressed => some false := by
  cases policy <;> simp [State.keyState, h]

/-- No key is chosen exactly when none is held. -/
theorem State.lowestKey_eq_none (s : State) : s.lowestKey = none ↔ ∀ k : Index, s.keyPressed k = false := by
  simp [State.lowestKey, List.find?_eq_none]

/-- The key chosen is the held key below which none is held. -/
theorem State.lowestKey_eq_some (s : State) (k : Index) :
    s.lowestKey = some k ↔ s.keyPressed k = true ∧ ∀ j : Index, j < k → s.keyPressed j = false := by
  rw [State.lowestKey, List.find?_eq_some_iff_getElem]
  simp only [List.getElem_finRange, List.length_finRange, Bool.not_eq_true']
  refine and_congr_right fun _ => ⟨?_, fun h => ⟨k.val, k.isLt, by simp, fun j hj => h _ (by simpa [Fin.lt_def] using hj)⟩⟩
  rintro ⟨n, hn, rfl, h⟩ j hj
  simpa using h j.val (by simpa [Fin.lt_def] using hj)

/-! The stack (40_control_flow.md R101, R103) and faults. -/

/-- Everything a push can do. -/
theorem pushAndJump_cases (target : Word) (s : State) :
    (∃ h : s.sp.val < 16, pushAndJump target s = .next
      { s with stack := s.stack.set s.sp.val s.pc, sp := ⟨s.sp.val + 1, by omega⟩, pc := target }) ∨
    (s.sp.val = 16 ∧ pushAndJump target s = .next { s with fault := some .stackOverflow }) := by
  by_cases h : s.sp.val < 16
  · exact .inl ⟨h, by simp [pushAndJump, h]⟩
  · exact .inr ⟨by omega, by simp [pushAndJump, h, raiseFault]⟩

/-- Everything a pop can do. -/
theorem popIntoPc_cases (policy : StackUnderflowPolicy) (s : State) :
    (∃ _ : s.sp.val ≠ 0, popIntoPc policy s = .next
      { s with sp := ⟨s.sp.val - 1, by omega⟩, pc := s.stack[s.sp.val - 1]'(by omega) }) ∨
    (s.sp.val = 0 ∧ policy = .clamp ∧ popIntoPc policy s = .next (s.setPc s.stack[0])) ∨
    (s.sp.val = 0 ∧ policy = .fault ∧ popIntoPc policy s = .next { s with fault := some .stackUnderflow }) := by
  by_cases h : s.sp.val = 0
  · cases policy
    · exact .inr (.inl ⟨h, rfl, by simp [popIntoPc, h]⟩)
    · exact .inr (.inr ⟨h, rfl, by simp [popIntoPc, h, raiseFault]⟩)
  · exact .inl ⟨h, by simp [popIntoPc, h]⟩

theorem raiseFault_eq (k : Fault) (s : State) : raiseFault k s = .next { s with fault := some k } := rfl

/-! Fetch. -/

/-- A word stored at pc, high byte first, is the one the next step fetches. -/
theorem State.fetchWord_withFetchWord (s : State) (nbits w : Nat) :
    (s.withFetchWord nbits w).fetchWord = tableWord nbits w := by
  have hne : mask s.pc ≠ mask (s.pc + 1) := by
    simp only [mask, BitVec.toNat_add, Config.memSize]
    rw [show (1 : Word).toNat = 1 from rfl]; omega
  have hr (a : Word) : (s.withFetchWord nbits w).memRead a =
      ((s.memWrite s.pc (highByte (tableWord nbits w))).memWrite (s.pc + 1)
        (lowByte (tableWord nbits w))).memRead a := rfl
  have hpc : (s.withFetchWord nbits w).pc = s.pc := rfl
  simp only [State.fetchWord, State.wordAt, hpc, hr, State.memRead_memWrite, if_neg hne, if_true]
  exact wordOfBytes_high_low _

end Sys2Proof.Machine
end

