-- ==== Sys2Proof/Laws/PerInstr.lean ====
section
/-! SUPPORT. The family RowMatch of statements made for each instruction as syntax: its encoding has the fixed bits of its
row of the opcode map (30_encoding.md R83). -/

namespace Sys2Proof.Laws

theorem wordA_row (c : BitVec 4) (nnn : Addr12) : wordA c nnn &&& 0xF000#16 = wordA c 0 := by
  apply BitVec.eq_of_getLsbD_eq
  intro i hi
  simp only [BitVec.getLsbD_and, wordA, BitVec.getLsbD_append]
  interval_cases i <;> simp

theorem wordXK_row (c : BitVec 4) (x : Index) (kk : Byte) : wordXK c x kk &&& 0xF000#16 = wordA c 0 := by
  apply BitVec.eq_of_getLsbD_eq
  intro i hi
  simp only [BitVec.getLsbD_and, wordA, wordXK, BitVec.getLsbD_append]
  interval_cases i <;> simp

theorem wordXK_row_sub (c : BitVec 4) (x : Index) (kk : Byte) : wordXK c x kk &&& 0xF0FF#16 = wordXK c 0 kk := by
  apply BitVec.eq_of_getLsbD_eq
  intro i hi
  simp only [BitVec.getLsbD_and, wordXK, nibble, BitVec.getLsbD_append]
  interval_cases i <;> simp

theorem wordXYN_row (c : BitVec 4) (x y : Index) (n : BitVec 4) : wordXYN c x y n &&& 0xF000#16 = wordA c 0 := by
  apply BitVec.eq_of_getLsbD_eq
  intro i hi
  simp only [BitVec.getLsbD_and, wordA, wordXYN, BitVec.getLsbD_append]
  interval_cases i <;> simp

theorem wordXYN_row_sub (c : BitVec 4) (x y : Index) (n : BitVec 4) :
    wordXYN c x y n &&& 0xF00F#16 = wordXYN c 0 0 n := by
  apply BitVec.eq_of_getLsbD_eq
  intro i hi
  simp only [BitVec.getLsbD_and, wordXYN, nibble, BitVec.getLsbD_append]
  interval_cases i <;> simp

/-- The encoding of `i` matches its row. -/
def RowMatch.Statement (i : Instr) : Prop := encode i &&& (opcodeRow i).mask = (opcodeRow i).pattern

theorem RowMatch.sys (nnn : Addr12) : RowMatch.Statement (.sys nnn) :=
  (wordA_row _ _).trans rfl
theorem RowMatch.cls : RowMatch.Statement .cls := by
  show _ = _; decide
theorem RowMatch.ret : RowMatch.Statement .ret := by
  show _ = _; decide
theorem RowMatch.jp (nnn : Addr12) : RowMatch.Statement (.jp nnn) :=
  (wordA_row _ _).trans rfl
theorem RowMatch.call (nnn : Addr12) : RowMatch.Statement (.call nnn) :=
  (wordA_row _ _).trans rfl
theorem RowMatch.seImm (x : Index) (kk : Byte) : RowMatch.Statement (.seImm x kk) :=
  (wordXK_row _ _ _).trans rfl
theorem RowMatch.sneImm (x : Index) (kk : Byte) : RowMatch.Statement (.sneImm x kk) :=
  (wordXK_row _ _ _).trans rfl
theorem RowMatch.seReg (x y : Index) : RowMatch.Statement (.seReg x y) :=
  (wordXYN_row _ _ _ _).trans rfl
theorem RowMatch.ldImm (x : Index) (kk : Byte) : RowMatch.Statement (.ldImm x kk) :=
  (wordXK_row _ _ _).trans rfl
theorem RowMatch.addImm (x : Index) (kk : Byte) : RowMatch.Statement (.addImm x kk) :=
  (wordXK_row _ _ _).trans rfl
theorem RowMatch.ldReg (x y : Index) : RowMatch.Statement (.ldReg x y) :=
  (wordXYN_row_sub _ _ _ _).trans rfl
theorem RowMatch.or (x y : Index) : RowMatch.Statement (.or x y) :=
  (wordXYN_row_sub _ _ _ _).trans rfl
theorem RowMatch.and (x y : Index) : RowMatch.Statement (.and x y) :=
  (wordXYN_row_sub _ _ _ _).trans rfl
theorem RowMatch.xor (x y : Index) : RowMatch.Statement (.xor x y) :=
  (wordXYN_row_sub _ _ _ _).trans rfl
theorem RowMatch.addReg (x y : Index) : RowMatch.Statement (.addReg x y) :=
  (wordXYN_row_sub _ _ _ _).trans rfl
theorem RowMatch.sub (x y : Index) : RowMatch.Statement (.sub x y) :=
  (wordXYN_row_sub _ _ _ _).trans rfl
theorem RowMatch.shr (x y : Index) : RowMatch.Statement (.shr x y) :=
  (wordXYN_row_sub _ _ _ _).trans rfl
theorem RowMatch.subn (x y : Index) : RowMatch.Statement (.subn x y) :=
  (wordXYN_row_sub _ _ _ _).trans rfl
theorem RowMatch.shl (x y : Index) : RowMatch.Statement (.shl x y) :=
  (wordXYN_row_sub _ _ _ _).trans rfl
theorem RowMatch.sneReg (x y : Index) : RowMatch.Statement (.sneReg x y) :=
  (wordXYN_row _ _ _ _).trans rfl
theorem RowMatch.ldI (nnn : Addr12) : RowMatch.Statement (.ldI nnn) :=
  (wordA_row _ _).trans rfl
theorem RowMatch.jpV0 (nnn : Addr12) : RowMatch.Statement (.jpV0 nnn) :=
  (wordA_row _ _).trans rfl
theorem RowMatch.rnd (x : Index) (kk : Byte) : RowMatch.Statement (.rnd x kk) :=
  (wordXK_row _ _ _).trans rfl
theorem RowMatch.drw (x y n : Index) : RowMatch.Statement (.drw x y n) :=
  (wordXYN_row _ _ _ _).trans rfl
theorem RowMatch.skp (x : Index) : RowMatch.Statement (.skp x) :=
  (wordXK_row_sub _ _ _).trans rfl
theorem RowMatch.sknp (x : Index) : RowMatch.Statement (.sknp x) :=
  (wordXK_row_sub _ _ _).trans rfl
theorem RowMatch.ldVxDt (x : Index) : RowMatch.Statement (.ldVxDt x) :=
  (wordXK_row_sub _ _ _).trans rfl
theorem RowMatch.ldK (x : Index) : RowMatch.Statement (.ldK x) :=
  (wordXK_row_sub _ _ _).trans rfl
theorem RowMatch.ldDtVx (x : Index) : RowMatch.Statement (.ldDtVx x) :=
  (wordXK_row_sub _ _ _).trans rfl
theorem RowMatch.ldStVx (x : Index) : RowMatch.Statement (.ldStVx x) :=
  (wordXK_row_sub _ _ _).trans rfl
theorem RowMatch.addI (x : Index) : RowMatch.Statement (.addI x) :=
  (wordXK_row_sub _ _ _).trans rfl
theorem RowMatch.ldF (x : Index) : RowMatch.Statement (.ldF x) :=
  (wordXK_row_sub _ _ _).trans rfl
theorem RowMatch.ldB (x : Index) : RowMatch.Statement (.ldB x) :=
  (wordXK_row_sub _ _ _).trans rfl
theorem RowMatch.ldStore (x : Index) : RowMatch.Statement (.ldStore x) :=
  (wordXK_row_sub _ _ _).trans rfl
theorem RowMatch.ldLoad (x : Index) : RowMatch.Statement (.ldLoad x) :=
  (wordXK_row_sub _ _ _).trans rfl

end Sys2Proof.Laws
end

