-- ==== Sys2Proof/Laws/Safety.lean ====
section
/-! SUPPORT. What a load does to the host's duties (60_exceptions.md R222; log 29). -/

namespace Sys2Proof.Machine

@[simp] theorem romFits_iff (rom : List Byte) : romFits rom = true ↔ rom.length ≤ Config.maxRom := by
  simp [romFits]

/-- A load that is made is the one load. -/
theorem hostDuties_fresh_load_made {rom : List Byte} (h : romFits rom = true) (ts : List Transaction) :
    hostDuties .fresh (.load rom :: ts) = hostDuties .loaded ts := by
  simp only [hostDuties, h, if_true]

/-- A refused load leaves the host where it was. -/
theorem hostDuties_fresh_load_refused {rom : List Byte} (h : romFits rom = false) (ts : List Transaction) :
    hostDuties .fresh (.load rom :: ts) = hostDuties .fresh ts := by
  simp only [hostDuties, h, Bool.false_eq_true, if_false]

/-- The one load is the last until a reset. -/
@[simp] theorem hostDuties_loaded_load (rom : List Byte) (ts : List Transaction) :
    hostDuties .loaded (.load rom :: ts) = false := rfl

/-- No step comes before the one load. -/
@[simp] theorem hostDuties_fresh_step (ts : List Transaction) : hostDuties .fresh (.step :: ts) = false := rfl

end Sys2Proof.Machine
end

