-- ==== Sys2Proof/Tests/Slice0.lean ====
section
/-! SUPPORT. Tests: ill-formed terms, words written out from 30_encoding.md section 4, single steps with the expected values of
95_test_vectors.md (each names its vector), and, for every statement with hypotheses, concrete values that meet them. -/

namespace Sys2Proof.Tests
open Sys2Proof Sys2Proof.Machine

/-! Helpers. -/

/-- The reset state with a word where the next step fetches it. -/
def fetching (w : Nat) : State := State.reset.withFetchWord 16 w

/-- Some registers set. -/
def withRegs (s : State) (l : List (Index × Byte)) : State := l.foldl (fun t p => t.setReg p.1 p.2) s

/-- Some bytes stored from an address up. -/
def withBytes (s : State) (a : Nat) (l : List Byte) : State := { s with mem := s.mem.writeBytes a l }

/-- Some keys held. -/
def withKeys (s : State) (l : List Nat) : State := l.foldl (fun t k => t.setKey k true) s

/-- Some pixels ON. -/
def withPixels (s : State) (l : List (Nat × Nat)) : State :=
  { s with fb := (l.foldl (fun d p => togglePixel d p.1 p.2) (s.fb, false)).1 }

/-- An outcome is a next state with a property. -/
def holds (o : Host.Outcome State Fault Refusal) (p : State → Bool) : Bool :=
  match o with
  | .next t => p t
  | _ => false

/-- The next state of an outcome, or the given one. -/
def nextOr (s : State) (o : Host.Outcome State Fault Refusal) : State :=
  match o with
  | .next t => t
  | _ => s

/-- The pixels that are ON, as (row, column), rows from `row` on. -/
def litFrom (fb : Framebuffer) (row rows : Nat) : List (Nat × Nat) :=
  (List.range rows).flatMap fun r => ((List.range 64).filter (fb.pixel (row + r))).map fun c => (row + r, c)

/-- What a word decodes to, if it does. -/
def decoded (w : Word) : Option Instr := (decode w).toOption

/-! WellFormed refuses (30_encoding.md R76). -/

theorem test_ill_formed_sys_cls_low_byte : (Instr.sys 0x1E0).wellFormed = false := by decide
theorem test_ill_formed_sys_ret_low_byte : (Instr.sys 0x0EE).wellFormed = false := by decide
theorem test_ill_formed_sys_full_word :
    (Instr.sys 0x0E0).wellFormedUnder .fullWord = false ∧ (Instr.sys 0x0EE).wellFormedUnder .fullWord = false := by
  decide
theorem test_well_formed_sys : (Instr.sys 0x123).wellFormed = true ∧
    (Instr.sys 0x1E0).wellFormedUnder .fullWord = true := by decide

/-! Decoding, one word for each constructor, written from the opcode map (30_encoding.md R83). -/

theorem test_decode_control : decoded 0x0123 = some (.sys 0x123) ∧ decoded 0x00EE = some .ret ∧
    decoded 0x1ABC = some (.jp 0xABC) ∧ decoded 0x220A = some (.call 0x20A) ∧ decoded 0x3F07 = some (.seImm 0xF 0x07) ∧
    decoded 0x4301 = some (.sneImm 3 0x01) ∧ decoded 0x5120 = some (.seReg 1 2) ∧ decoded 0x9AB0 = some (.sneReg 0xA 0xB) ∧
    decoded 0xB300 = some (.jpV0 0x300) := by decide

theorem test_decode_alu : decoded 0x6A12 = some (.ldImm 0xA 0x12) ∧ decoded 0x7F01 = some (.addImm 0xF 0x01) ∧
    decoded 0x8120 = some (.ldReg 1 2) ∧ decoded 0x8121 = some (.or 1 2) ∧ decoded 0x8122 = some (.and 1 2) ∧
    decoded 0x8123 = some (.xor 1 2) ∧ decoded 0x8AB4 = some (.addReg 0xA 0xB) ∧ decoded 0x8CD5 = some (.sub 0xC 0xD) ∧
    decoded 0x8346 = some (.shr 3 4) ∧ decoded 0x8127 = some (.subn 1 2) ∧ decoded 0x834E = some (.shl 3 4) ∧
    decoded 0xC50F = some (.rnd 5 0x0F) := by decide

theorem test_decode_display : decoded 0x00E0 = some .cls ∧ decoded 0xD125 = some (.drw 1 2 5) := by decide

theorem test_decode_keys_timers : decoded 0xE19E = some (.skp 1) ∧ decoded 0xE2A1 = some (.sknp 2) ∧
    decoded 0xF407 = some (.ldVxDt 4) ∧ decoded 0xF30A = some (.ldK 3) ∧ decoded 0xF315 = some (.ldDtVx 3) ∧
    decoded 0xF218 = some (.ldStVx 2) := by decide

theorem test_decode_index_memory : decoded 0xA300 = some (.ldI 0x300) ∧ decoded 0xF01E = some (.addI 0) ∧
    decoded 0xFA29 = some (.ldF 0xA) ∧ decoded 0xFB33 = some (.ldB 0xB) ∧ decoded 0xF255 = some (.ldStore 2) ∧
    decoded 0xFF65 = some (.ldLoad 0xF) := by decide

/-- V-U-1 to V-U-3, and one unlisted word more of each class. -/
theorem test_decode_unknown : decoded 0x8AB8 = none ∧ decoded 0x812F = none ∧ decoded 0xE0FF = none ∧
    decoded 0xE1A0 = none ∧ decoded 0xF0FF = none ∧ decoded 0xF000 = none := by decide

/-- V-U-4, V-U-5: CLASS0_MATCH. -/
theorem test_decode_class0_match : (decodeUnder .lowByte 0x0AE0).toOption = some .cls ∧
    (decodeUnder .fullWord 0x0AE0).toOption = some (.sys 0xAE0) ∧ (decodeUnder .fullWord 0x00E0).toOption = some .cls := by
  decide

/-- V-U-6: the low nibble of classes 5 and 9 is ignored. -/
theorem test_decode_ignored_nibble : decoded 0x5127 = some (.seReg 1 2) ∧ decoded 0x912F = some (.sneReg 1 2) := by decide

/-- The table's bit numbering: bits 15..8 are the byte at the lower address (20_memory.md R52). -/
theorem test_decode_table_word : decodeTableWord 16 0x8AB4 = some (.addReg 0xA 0xB) ∧ decodeTableWord 16 0x8AB8 = none := by
  decide

/-! Fetch and the step. -/

/-- V-F-1. -/
theorem test_step_fetch_big_endian :
    holds (step (withBytes State.reset 0x200 [0x6A, 0x12])) (fun t => t.reg 0xA == 0x12 && t.pc == 0x202) = true := by decide

/-- V-F-2. -/
theorem test_step_fetch_wraps :
    holds (step { withBytes State.reset 0xFFF [0x60] with pc := 0x0FFF }) (fun t => t.reg 0 == 0xF0 && t.pc == 0x1001) = true := by
  decide

/-- V-F-5. -/
theorem test_step_pc_wraps : holds (step { State.reset with pc := 0xFFFE }) (fun t => t.pc == 0) = true := by decide

/-- V-U-1. -/
theorem test_step_unknown_word : holds (step (fetching 0x8AB8)) (fun t => t == (fetching 0x8AB8).advance) = true := by decide

/-! Control flow. -/

/-- V-CF-1. -/
theorem test_step_sys : holds (step (fetching 0x0123)) (fun t => t == (fetching 0x0123).advance) = true := by decide
/-- V-CF-2. -/
theorem test_step_jp : holds (step (fetching 0x1ABC)) (fun t => t.pc == 0x0ABC) = true := by decide
/-- V-CF-3. -/
theorem test_step_jp_odd : holds (step (fetching 0x1201)) (fun t => t.pc == 0x0201) = true := by decide
/-- V-CF-4. -/
theorem test_step_call :
    holds (step ({ State.reset with pc := 0x204 }.withFetchWord 16 0x220A))
      (fun t => t.stackEntry 0 == 0x0206 && t.sp == 1 && t.pc == 0x20A) = true := by decide
/-- V-CF-5. -/
theorem test_step_call_overflow :
    holds (step ({ State.reset with pc := 0x300, sp := 16 }.withFetchWord 16 0x2400))
      (fun t => t.fault == some .stackOverflow && t.pc == 0x302 && t.sp == 16 && t.stack == State.reset.stack) = true := by decide
/-- V-CF-6. -/
theorem test_step_ret :
    holds (step { fetching 0x00EE with sp := 1, stack := State.reset.stack.set 0 0x0206 })
      (fun t => t.pc == 0x206 && t.sp == 0) = true := by decide
/-- V-CF-8. -/
theorem test_step_ret_clamps :
    holds (step { fetching 0x00EE with stack := State.reset.stack.set 0 0x0456 })
      (fun t => t.pc == 0x456 && t.sp == 0 && t.fault == none) = true := by decide
/-- V-CF-9. -/
theorem test_step_ret_underflow_policy :
    holds (stepUnder { Config.default with stackUnderflow := .fault } (fetching 0x00EE))
      (fun t => t.fault == some .stackUnderflow && t.pc == 0x202) = true := by decide
/-- V-CF-10. -/
theorem test_step_se_imm : holds (step (withRegs (fetching 0x3012) [(0, 0x12)])) (fun t => t.pc == 0x204) = true := by decide
/-- V-CF-11. -/
theorem test_step_se_imm_not : holds (step (withRegs (fetching 0x3012) [(0, 0x13)])) (fun t => t.pc == 0x202) = true := by decide
/-- V-CF-12. -/
theorem test_step_sne_imm : holds (step (fetching 0x4301)) (fun t => t.pc == 0x204) = true := by decide
/-- V-CF-13. -/
theorem test_step_sne_imm_not : holds (step (withRegs (fetching 0x4301) [(3, 1)])) (fun t => t.pc == 0x202) = true := by decide
/-- V-CF-14. -/
theorem test_step_se_reg :
    holds (step (withRegs (fetching 0x5120) [(1, 0x40), (2, 0x40)])) (fun t => t.pc == 0x204) = true := by decide
/-- V-CF-16. -/
theorem test_step_sne_reg :
    holds (step (withRegs (fetching 0x9120) [(1, 0x40), (2, 0x41)])) (fun t => t.pc == 0x204) = true := by decide
/-- V-CF-17. -/
theorem test_step_sne_reg_same : holds (step (withRegs (fetching 0x9110) [(1, 7)])) (fun t => t.pc == 0x202) = true := by decide
/-- V-CF-18. -/
theorem test_step_jp_v0 : holds (step (withRegs (fetching 0xB300) [(0, 0x10), (3, 0x77)])) (fun t => t.pc == 0x310) = true := by
  decide
/-- V-CF-19. -/
theorem test_step_jp_v0_above : holds (step (withRegs (fetching 0xBFFF) [(0, 0xFF)])) (fun t => t.pc == 0x10FE) = true := by decide

/-! ALU. -/

/-- V-A-2. -/
theorem test_step_ld_imm : holds (step (fetching 0x6F42)) (fun t => t.reg 0xF == 0x42) = true := by decide
/-- V-A-3. -/
theorem test_step_add_imm :
    holds (step (withRegs (fetching 0x7001) [(0, 0xFF), (0xF, 0x55)])) (fun t => t.reg 0 == 0 && t.reg 0xF == 0x55) = true := by
  decide
/-- V-A-6. -/
theorem test_step_ld_reg : holds (step (withRegs (fetching 0x8120) [(2, 0x33)])) (fun t => t.reg 1 == 0x33) = true := by decide
/-- V-A-7. -/
theorem test_step_or :
    holds (step (withRegs (fetching 0x8121) [(1, 0xF0), (2, 0x0F), (0xF, 0x55)]))
      (fun t => t.reg 1 == 0xFF && t.reg 0xF == 0x55) = true := by decide
/-- V-A-8. -/
theorem test_step_and :
    holds (step (withRegs (fetching 0x8122) [(1, 0xF0), (2, 0x3C)])) (fun t => t.reg 1 == 0x30) = true := by decide
/-- V-A-9. -/
theorem test_step_xor :
    holds (step (withRegs (fetching 0x8123) [(1, 0xF0), (2, 0x3C)])) (fun t => t.reg 1 == 0xCC) = true := by decide
/-- V-A-11. -/
theorem test_step_add_reg :
    holds (step (withRegs (fetching 0x8AB4) [(0xA, 0xFF), (0xB, 1)])) (fun t => t.reg 0xA == 0 && t.reg 0xF == 1) = true := by
  decide
/-- V-A-16. -/
theorem test_step_add_reg_vf :
    holds (step (withRegs (fetching 0x8F14) [(0xF, 0xFF), (1, 1)])) (fun t => t.reg 0xF == 1) = true := by decide
/-- V-A-18. -/
theorem test_step_sub_borrow :
    holds (step (withRegs (fetching 0x8CD5) [(0xC, 5), (0xD, 7)])) (fun t => t.reg 0xC == 0xFE && t.reg 0xF == 0) = true := by
  decide
/-- V-A-20. -/
theorem test_step_sub_equal :
    holds (step (withRegs (fetching 0x8125) [(1, 5), (2, 5)])) (fun t => t.reg 1 == 0 && t.reg 0xF == 1) = true := by decide
/-- V-A-26. -/
theorem test_step_shr :
    holds (step (withRegs (fetching 0x8346) [(3, 1), (4, 0xFF)])) (fun t => t.reg 3 == 0 && t.reg 0xF == 1) = true := by decide
/-- V-A-27. -/
theorem test_step_shr_vf : holds (step (withRegs (fetching 0x8F06) [(0xF, 3)])) (fun t => t.reg 0xF == 1) = true := by decide
/-- V-A-29. -/
theorem test_step_subn_borrow :
    holds (step (withRegs (fetching 0x8127) [(1, 7), (2, 5)])) (fun t => t.reg 1 == 0xFE && t.reg 0xF == 0) = true := by decide
/-- V-A-30. -/
theorem test_step_subn_equal :
    holds (step (withRegs (fetching 0x8127) [(1, 5), (2, 5)])) (fun t => t.reg 1 == 0 && t.reg 0xF == 1) = true := by decide
/-- V-A-31. -/
theorem test_step_shl :
    holds (step (withRegs (fetching 0x830E) [(3, 0x81)])) (fun t => t.reg 3 == 2 && t.reg 0xF == 1) = true := by decide
/-- V-A-34. -/
theorem test_step_shl_vf : holds (step (withRegs (fetching 0x8F0E) [(0xF, 0x40)])) (fun t => t.reg 0xF == 0) = true := by decide
/-- V-A-35: with the random byte 0xAB. -/
theorem test_rnd_masks : holds (rndWith 0xAB 5 0x0F (fetching 0xC50F)) (fun t => t.reg 5 == 0x0B && t.draws == 1) = true := by decide
/-- V-A-36: a step of RND with kk = 0 consumes a byte, whatever it is. -/
theorem test_step_rnd_consumes : holds (step (fetching 0xC500)) (fun t => t.draws == 1 && t.pc == 0x202) = true := by decide

/-! Display. -/

/-- V-DRW-3: the corner, clipped. -/
theorem test_step_drw_clips :
    holds (step (withRegs (fetching 0xD015) [(0, 0x3E), (1, 0x1E)]))
      (fun t => litFrom t.fb 30 2 == [(30, 62), (30, 63), (31, 62)] && litFrom t.fb 0 2 == [] && t.reg 0xF == 0) = true := by decide
/-- V-DRW-8: a collision. -/
theorem test_step_drw_collides :
    holds (step { withPixels (fetching 0xD011) [(0, 2)] with i := 5 })
      (fun t => litFrom t.fb 0 1 == [] && t.reg 0xF == 1) = true := by decide
/-- log 26, by hand from R142 and R143: on a screen where the one pixel of the sprite is ON the first drawing toggles it, and the
second does not collide. -/
theorem test_second_drawing_without_collision :
    (drawSprite (togglePixel (Framebuffer.clear, false) 0 0).1 0 0 [0x80]).2 = true ∧
      (drawSprite (drawSprite (togglePixel (Framebuffer.clear, false) 0 0).1 0 0 [0x80]).1 0 0 [0x80]).2 = false := by decide
/-- V-CLS-1. -/
theorem test_step_cls :
    holds (step (withRegs (withPixels (fetching 0x00E0) [(0, 0), (31, 63)]) [(0xF, 0x55)]))
      (fun t => litFrom t.fb 0 1 == [] && litFrom t.fb 31 1 == [] && t.reg 0xF == 0x55) = true := by decide

/-! Keys and timers. -/

/-- V-K-1. -/
theorem test_step_skp :
    holds (step (withKeys (withRegs (fetching 0xE19E) [(1, 5)]) [5])) (fun t => t.pc == 0x204) = true := by decide
/-- V-K-5. -/
theorem test_step_skp_bad_index :
    holds (step (withRegs (fetching 0xE19E) [(1, 0x10)]))
      (fun t => t.fault == some .keyIndexOutOfRange && t.pc == 0x202) = true := by decide
/-- V-K-3. -/
theorem test_step_sknp : holds (step (withRegs (fetching 0xE1A1) [(1, 5)])) (fun t => t.pc == 0x204) = true := by decide
/-- V-K-4. -/
theorem test_step_sknp_not :
    holds (step (withKeys (withRegs (fetching 0xE1A1) [(1, 5)]) [5])) (fun t => t.pc == 0x202) = true := by decide
/-- V-K-6. -/
theorem test_step_skp_low_nibble :
    holds (stepUnder { Config.default with keyIndex := .lowNibble } (withKeys (withRegs (fetching 0xE19E) [(1, 0x15)]) [5]))
      (fun t => t.pc == 0x204) = true := by decide
/-- V-K-7. -/
theorem test_step_sknp_not_pressed :
    holds (stepUnder { Config.default with keyIndex := .notPressed } (withRegs (fetching 0xE1A1) [(1, 0x15)]))
      (fun t => t.pc == 0x204) = true := by decide
/-- V-K-8. -/
theorem test_step_ld_k_waits : holds (step (fetching 0xF30A)) (fun t => t == fetching 0xF30A) = true := by decide
/-- V-K-9. -/
theorem test_step_ld_k :
    holds (step (withKeys (fetching 0xF30A) [7, 3])) (fun t => t.reg 3 == 3 && t.pc == 0x202) = true := by decide
/-- V-T-1. -/
theorem test_step_ld_vx_dt :
    holds (step { fetching 0xF407 with dt := 0x3C }) (fun t => t.reg 4 == 0x3C && t.dt == 0x3C) = true := by decide
/-- V-T-2. -/
theorem test_step_ld_dt_vx : holds (step (withRegs (fetching 0xF315) [(3, 5)])) (fun t => t.dt == 5 && t.st == 0) = true := by decide
/-- V-T-3. -/
theorem test_step_ld_st_vx :
    holds (step (withRegs (fetching 0xF218) [(2, 0xA)])) (fun t => t.st == 0xA && t.soundActive && t.dt == 0) = true := by decide
/-- S10. -/
theorem test_tick : holds (transact .tick { State.reset with dt := 1 }) (fun t => t.dt == 0 && t.st == 0) = true := by decide

/-! Address register and memory. -/

/-- V-M-1. -/
theorem test_step_ld_i : holds (step (fetching 0xA300)) (fun t => t.i == 0x300) = true := by decide
/-- V-M-3. -/
theorem test_step_add_i :
    holds (step { withRegs (fetching 0xF01E) [(0, 1), (0xF, 0x55)] with i := 0xFFF })
      (fun t => t.i == 0x1000 && t.reg 0xF == 0x55) = true := by decide
/-- V-M-4. -/
theorem test_step_add_i_wraps :
    holds (step { withRegs (fetching 0xF01E) [(0, 2)] with i := 0xFFFF }) (fun t => t.i == 1) = true := by decide
/-- V-M-5. -/
theorem test_step_ld_f : holds (step (withRegs (fetching 0xF029) [(0, 0xA)])) (fun t => t.i == 0x32) = true := by decide
/-- V-M-7. -/
theorem test_step_ld_f_above : holds (step (withRegs (fetching 0xF029) [(0, 0x10)])) (fun t => t.i == 0x50) = true := by decide
/-- V-M-8. -/
theorem test_step_ld_b :
    holds (step { withRegs (fetching 0xF033) [(0, 0x9C)] with i := 0x300 })
      (fun t => t.bytesAtI 3 == [1, 5, 6] && t.i == 0x300) = true := by decide
/-- V-M-12. -/
theorem test_step_ld_b_wraps :
    holds (step { withRegs (fetching 0xF033) [(0, 0xFF)] with i := 0xFFE })
      (fun t => t.mem.read 0xFFE == 2 && t.mem.read 0xFFF == 5 && t.mem.read 0 == 5) = true := by decide
/-- V-M-13. -/
theorem test_step_ld_store :
    holds (step { withRegs (fetching 0xF255) [(0, 1), (1, 2), (2, 3), (3, 4)] with i := 0x300 })
      (fun t => t.bytesAtI 4 == [1, 2, 3, 0] && t.i == 0x300) = true := by decide
/-- V-M-15. -/
theorem test_step_ld_store_wraps :
    holds (step { withRegs (fetching 0xF155) [(0, 0x11), (1, 0x22)] with i := 0xFFF })
      (fun t => t.mem.read 0xFFF == 0x11 && t.mem.read 0 == 0x22) = true := by decide
/-- V-M-16. -/
theorem test_step_ld_load :
    holds (step { withBytes (withRegs (fetching 0xF265) [(3, 9)]) 0x300 [1, 5, 6, 7] with i := 0x300 })
      (fun t => t.reg 0 == 1 && t.reg 1 == 5 && t.reg 2 == 6 && t.reg 3 == 9 && t.i == 0x300) = true := by decide

/-! The load. -/

/-- S6. -/
theorem test_load : holds (transact (.load [0x00, 0x11, 0x22]) State.reset)
    (fun t => t.mem.read 0x200 == 0 && t.mem.read 0x201 == 0x11 && t.mem.read 0x202 == 0x22 && t.mem.read 0x203 == 0) = true := by
  decide
/-- Writing a byte its reset content keeps memory canonical: no entry is left. -/
theorem test_memory_write_back : (Memory.write (Memory.write [] 0x300 7) 0x1300 0) = [] := by decide

/-! Witnesses: concrete values that meet the hypotheses of the statements of Certificates/Slice0/Obligations.lean, clause by
clause. A next state is written `nextOr s o`. -/

/-- A key test of a register above 15 about to run. -/
def badKeyTest : State := withRegs (fetching 0xE19E) [(1, 0x10)]

/-- A CALL with the stack full about to run, at the last even address. -/
def fullCall : State := { State.reset with pc := 0xFFE, sp := 16 }.withFetchWord 16 0x2400

/-- A block stopped on a stack overflow. -/
def stopped : State := { State.reset with fault := some .stackOverflow }

theorem witness_reset_changes_state : ∃ s : State, s ≠ State.reset ∧ transact .reset s = .next s.resetBlock :=
  ⟨stopped, by decide, rfl⟩

theorem witness_invariant_step_raises :
    machineInv fullCall = true ∧ step fullCall = .next (nextOr fullCall (step fullCall)) ∧
      (nextOr fullCall (step fullCall)).fault = some .stackOverflow := ⟨by decide, rfl, by decide⟩

theorem witness_invariant_step_key :
    machineInv badKeyTest = true ∧ step badKeyTest = .next (nextOr badKeyTest (step badKeyTest)) ∧
      (nextOr badKeyTest (step badKeyTest)).fault = some .keyIndexOutOfRange := ⟨by decide, rfl, by decide⟩

theorem witness_invariant_when_stopped :
    machineInv (nextOr badKeyTest (step badKeyTest)) = true := by decide

theorem witness_transactions_canonical :
    (withBytes State.reset 0x300 [1, 2]).mem.wf = true ∧
      transactUnder Config.default (.load [9, 0]) (withBytes State.reset 0x300 [1, 2]) =
        .next ((withBytes State.reset 0x300 [1, 2]).load [9, 0]) := ⟨by decide, rfl⟩

/-- Two memories built in different orders. -/
theorem witness_canonical_memories : ∃ m n : Memory, m.wf = true ∧ n.wf = true ∧ (∀ a : Nat, m.read a = n.read a) ∧ m ≠ [] :=
  ⟨Memory.write (Memory.write [] 0x300 1) 0x0 2, Memory.write (Memory.write [] 0x0 2) 0x300 1, by decide, by decide,
    fun a => congrArg (fun m : Memory => m.read a)
      (show Memory.write (Memory.write [] 0x300 1) 0x0 2 = Memory.write (Memory.write [] 0x0 2) 0x300 1 by decide), by decide⟩

theorem witness_font_after_load :
    transactUnder Config.default .reset stopped = .next { State.resetUnder Config.default with draws := stopped.draws } ∧
      transactUnder Config.default (.load [1]) { State.resetUnder Config.default with draws := stopped.draws } =
        .next ({ State.resetUnder Config.default with draws := stopped.draws }.load [1]) := ⟨rfl, rfl⟩

theorem witness_framebuffer_kept :
    Transaction.step ≠ .reset ∧ decodeUnder .lowByte (fetching 0x1ABC).fetchWord = .ok (.jp 0xABC) ∧
      transactUnder Config.default .step (fetching 0x1ABC) =
        .next (nextOr State.reset (stepUnder Config.default (fetching 0x1ABC))) ∧
      Transaction.tick ≠ .reset ∧ transactUnder Config.default .tick stopped = .next stopped.tick :=
  ⟨by decide, by decide, rfl, by decide, rfl⟩

theorem witness_encode_well_formed :
    (Instr.sys 0x123).wellFormedUnder .lowByte = true ∧ (Instr.sys 0x1E0).wellFormedUnder .fullWord = true ∧
      (Instr.drw 0xF 0xF 0xF).wellFormed = true := by decide

theorem witness_decoded_words :
    decodeUnder .lowByte 0x0FEE = .ok .ret ∧ decodeUnder .fullWord 0x0FEE = .ok (.sys 0xFEE) ∧
      decodeUnder .lowByte 0x5127 = .ok (.seReg 1 2) ∧ decodeUnder .fullWord 0x00E0 = .ok .cls := by decide

theorem witness_unknown_words :
    decodeUnder .lowByte 0x8AB8 = .error (.unknownClass8 8) ∧ decodeUnder .lowByte 0xE0FF = .error (.unknownClassE 0xFF) ∧
      decodeUnder .fullWord 0xF0FF = .error (.unknownClassF 0xFF) := by decide

theorem witness_matching_rows :
    decode 0x00E0 = .ok .cls ∧ (0x00E0 : Word) &&& (opcodeRow (.sys 0x0E0)).mask = (opcodeRow (.sys 0x0E0)).pattern ∧
      (0x912F : Word) &&& (opcodeRow (.sneReg 1 2)).mask = (opcodeRow (.sneReg 1 2)).pattern := by decide

theorem witness_step_runs_decoded :
    (fetching 0x8AB4).fault = none ∧ (fetching 0x8AB4).memRead 0x200 = 0x8A ∧ (fetching 0x8AB4).memRead (0x200 + 1) = 0xB4 ∧
      decode (0x8A#8 ++ 0xB4#8) = .ok (.addReg 0xA 0xB) := by decide

/-- At the last address of memory, named by a pc above it. -/
theorem witness_step_runs_decoded_wrapped :
    ({ State.reset with pc := 0xFFFF }.withFetchWord 16 0x1234).memRead 0xFFFF = 0x12 ∧
      ({ State.reset with pc := 0xFFFF }.withFetchWord 16 0x1234).memRead (0xFFFF + 1) = 0x34 ∧
      decode (0x12#8 ++ 0x34#8) = .ok (.jp 0x234) := by decide

theorem witness_fetch_wraps :
    (0xFFF#16).toNat % 4096 = 0xFFF ∧ (0x1FFF#16).toNat % 4096 = 0xFFF ∧ (0xFFE#16).toNat % 4096 ≠ 0xFFF ∧
      (0x201#16).toNat % 4096 ≠ 0xFFF := by decide

theorem witness_step_completes :
    stopped.fault ≠ none ∧ (fetching 0x00E0).fault = none ∧ decode (fetching 0x00E0).fetchWord = .ok .cls ∧
      (fetching 0x8AB8).fault = none ∧ decode (fetching 0x8AB8).fetchWord = .error (.unknownClass8 8) := by decide

theorem witness_pc_order_skips :
    State.reset.fault = none ∧ decode (fetching 0x30FF).fetchWord = .ok (.seImm 0 0xFF) ∧
      decode (fetching 0x40FF).fetchWord = .ok (.sneImm 0 0xFF) ∧ decode (fetching 0x5120).fetchWord = .ok (.seReg 1 2) ∧
      decode (fetching 0x9120).fetchWord = .ok (.sneReg 1 2) := by decide

theorem witness_pc_order_keys_call_wait :
    decode (withRegs (fetching 0xE19E) [(1, 15)]).fetchWord = .ok (.skp 1) ∧
      ((withRegs (fetching 0xE19E) [(1, 15)]).reg 1).toNat = (15 : Index).val ∧
      decode (fetching 0xE1A1).fetchWord = .ok (.sknp 1) ∧ ((fetching 0xE1A1).reg 1).toNat = (0 : Index).val ∧
      decode { fetching 0x220A with sp := 15 }.fetchWord = .ok (.call 0x20A) ∧ (15 : Fin 17).val = (15 : Index).val ∧
      decode (fetching 0xF30A).fetchWord = .ok (.ldK 3) ∧ (∀ k : Index, (fetching 0xF30A).keyPressed k = false) := by decide

/-- The last pair that FF55 stores is the next word. -/
def selfStore : State := { withRegs (fetching 0xFF55) [(14, 0x12), (15, 0x02)] with i := 0x1F4 }

theorem witness_stored_bytes_fetched :
    selfStore.fault = none ∧ decode selfStore.fetchWord = .ok (.ldStore 15) ∧ 14 < (15 : Index).val ∧
      mask (selfStore.pc + 2) = mask (selfStore.effAddr 14) ∧ step selfStore = .next (nextOr selfStore (step selfStore)) :=
  ⟨by decide, by decide, by decide, by decide, rfl⟩

theorem witness_faults_raised :
    exec (.call 0x400) fullCall = .next { fullCall with fault := some .stackOverflow } ∧
      exec (.skp 1) badKeyTest = .next { badKeyTest with fault := some .keyIndexOutOfRange } ∧
      16 ≤ (badKeyTest.reg 1).toNat ∧ exec (.jp 0x400) stopped = .next (stopped.setPc 0x400) := ⟨rfl, rfl, by decide, rfl⟩

theorem witness_fault_sticky :
    stopped.fault ≠ none ∧ Transaction.reset ∉ [.step, .tick, .setKey 3 true, .snapshot] ∧
      (∀ rom, Transaction.load rom ∉ [.step, .tick, .setKey 3 true, .snapshot]) ∧
      Transaction.reset ∉ [.load [1], .step] := by simp [stopped]

theorem witness_frames :
    exec (.ldLoad 2) (fetching 0xF265) = .next ((fetching 0xF265).loadRegs 3) ∧
      exec (.drw 0 1 5) (fetching 0xD015) = .next (nextOr State.reset (exec (.drw 0 1 5) (fetching 0xD015))) := ⟨rfl, rfl⟩

/-- A register that ADD V1, V2 does not read may differ. -/
theorem witness_reads_only_its_registers :
    (∀ r ∈ regsRead (.addReg 1 2), State.reg { State.reset with v := State.reset.v.set 5 9 } r = State.reset.reg r) ∧
      State.reset.v.set 5 9 ≠ State.reset.v ∧
      exec (.addReg 1 2) State.reset = .next (nextOr State.reset (exec (.addReg 1 2) State.reset)) ∧
      exec (.addReg 1 2) { State.reset with v := State.reset.v.set 5 9 } =
        .next (nextOr State.reset (exec (.addReg 1 2) { State.reset with v := State.reset.v.set 5 9 })) :=
  ⟨by decide, by decide, rfl, rfl⟩

theorem witness_memory_not_reached :
    (∀ x y n, Instr.call 0x20A ≠ .drw x y n) ∧ (∀ x, Instr.call 0x20A ≠ .ldB x) ∧ (∀ x, Instr.call 0x20A ≠ .ldStore x) ∧
      (∀ x, Instr.call 0x20A ≠ .ldLoad x) ∧ exec (.ldLoad 0) State.reset = .next (State.reset.loadRegs 1) ∧
      (∀ x, Instr.ldLoad 0 ≠ .ldB x) ∧ (∀ x, Instr.ldLoad 0 ≠ .ldStore x) := by
  refine ⟨?_, ?_, ?_, ?_, rfl, ?_, ?_⟩ <;> simp

theorem witness_top_bits_of_i :
    mask 0xF300 = mask { State.reset with i := 0x300 }.i ∧
      exec (.ldB 0) { State.reset with i := 0x300 } =
        .next (nextOr State.reset (exec (.ldB 0) { State.reset with i := 0x300 })) ∧
      exec (.ldB 0) { State.reset with i := 0xF300 } =
        .next (nextOr State.reset (exec (.ldB 0) { State.reset with i := 0xF300 })) ∧
      exec (.addI 0) { State.reset with i := 0x300 } = .next (State.reset.setI 0x300) ∧
      exec (.addI 0) { State.reset with i := 0xF300 } = .next (State.reset.setI 0xF300) :=
  ⟨by decide, rfl, rfl, rfl, rfl⟩

theorem witness_keys_untouched :
    exec (.jp 0x300) (withKeys State.reset [15]) = .next ((withKeys State.reset [15]).setPc 0x300) ∧
      (∀ k p, Transaction.tick ≠ .setKey k p) ∧ Transaction.tick ≠ .reset ∧
      transact .tick (withKeys State.reset [15]) = .next (withKeys State.reset [15]).tick ∧
      (∀ x, Instr.ldDtVx 0 ≠ .skp x) ∧ (∀ x, Instr.ldDtVx 0 ≠ .sknp x) ∧ (∀ x, Instr.ldDtVx 0 ≠ .ldK x) := by
  refine ⟨rfl, ?_, ?_, rfl, ?_, ?_, ?_⟩ <;> simp

theorem witness_timers_untouched :
    (∀ x, Instr.ldDtVx 0 ≠ .ldStVx x) ∧ (∀ x, Instr.ldStVx 0 ≠ .ldVxDt x) ∧ (∀ x, Instr.ldStVx 0 ≠ .ldDtVx x) ∧
      exec (.ldStVx 0) State.reset = .next { State.reset with st := 0 } := by
  refine ⟨?_, ?_, ?_, rfl⟩ <;> simp

theorem witness_call_clauses :
    State.reset.sp.val < 16 ∧ { State.reset with sp := 15 }.sp.val < 16 ∧ fullCall.sp.val = 16 := by decide

theorem witness_ret_clauses :
    { State.reset with sp := 1 }.sp.val = (0 : Index).val + 1 ∧ fullCall.sp.val = (15 : Index).val + 1 ∧ State.reset.sp.val = 0 ∧
      { Config.default with stackUnderflow := .fault }.stackUnderflow = .fault := by decide

theorem witness_return_undoes_call :
    { State.reset with sp := 15 }.sp.val < 16 ∧
      exec (.call 0x300) { State.reset with sp := 15 } =
        .next { State.reset with sp := 16, stack := State.reset.stack.set 15 0x200, pc := 0x300 } ∧
      { State.reset with sp := 16, stack := State.reset.stack.set 15 0x200, i := 7 }.sp = 16 := ⟨by decide, rfl, rfl⟩

theorem witness_result_is_not_vf : (0 : Index) ≠ vf ∧ (14 : Index) ≠ vf := by decide

/-- The rows of the glyph 0, of no rows, and of fifteen bytes that wrap at the end of memory. -/
theorem witness_drw_rows :
    ([0xF0, 0x90, 0x90, 0x90, 0xF0] : List Byte).length = (5 : Index).val ∧
      (∀ k : Fin 5, [0xF0, 0x90, 0x90, 0x90, 0xF0][k.val] = State.reset.memRead (State.reset.i + BitVec.ofNat 16 k.val)) ∧
      ([] : List Byte).length = (0 : Index).val ∧
      ({ State.reset with i := 0xFFE }.bytesAtI 15).length = (15 : Index).val ∧
      { State.reset with i := 0xFFE }.bytesAtI 15 =
        [0, 0, 0xF0, 0x90, 0x90, 0x90, 0xF0, 0x20, 0x60, 0x20, 0x20, 0x70, 0xF0, 0x10, 0xF0] := by decide

theorem witness_key_skip_clauses :
    (State.reset.reg 1).toNat = (0 : Index).val ∧ ((withRegs State.reset [(1, 15)]).reg 1).toNat = (15 : Index).val ∧
      16 ≤ ((withRegs State.reset [(1, 16)]).reg 1).toNat ∧ 16 ≤ ((withRegs State.reset [(1, 255)]).reg 1).toNat := by decide

theorem witness_key_policies :
    ((withRegs State.reset [(1, 15)]).reg 1).toNat = (15 : Index).val ∧ (State.reset.reg 1).toNat = (0 : Index).val ∧
      16 ≤ ((withRegs State.reset [(1, 16)]).reg 1).toNat ∧ 16 ≤ ((withRegs State.reset [(1, 0x1F)]).reg 1).toNat ∧ { Config.default with keyIndex := .lowNibble }.keyIndex = .lowNibble ∧
      ((withRegs State.reset [(1, 0x1F)]).reg 1).toNat % 16 = (15 : Index).val ∧
      { Config.default with keyIndex := .notPressed }.keyIndex = .notPressed := by decide

theorem witness_lowest_key :
    (withKeys State.reset [7, 3]).keyPressed 3 = true ∧
      (∀ j : Index, j < 3 → (withKeys State.reset [7, 3]).keyPressed j = false) ∧
      (withKeys State.reset [15]).keyPressed 15 = true ∧
      (∀ j : Index, j < 15 → (withKeys State.reset [15]).keyPressed j = false) ∧
      (∀ k : Index, State.reset.keyPressed k = false) := by decide

theorem witness_wait_for_key :
    (fetching 0xF30A).fault = none ∧ decode (fetching 0xF30A).fetchWord = .ok (.ldK 3) ∧
      (∀ j : Index, (fetching 0xF30A).keyPressed j = false) := by decide

theorem witness_byte_outside_the_stored :
    (∀ k : Fin 3, mask 0x303 ≠ mask ({ State.reset with i := 0x300 }.effAddr k.val)) ∧
      (∀ k : Index, k ≤ 2 → mask 0x303 ≠ mask ({ State.reset with i := 0x300 }.effAddr k.val)) := by decide

theorem witness_rom_sizes :
    (List.replicate 3584 (0 : Byte)).length ≤ 3584 ∧ 3584 < (List.replicate 3585 (0 : Byte)).length ∧
      ([] : List Byte).length ≤ 3584 := by
  rw [List.length_replicate, List.length_replicate]; decide

theorem witness_refused_key : 16 ≤ 16 ∧ transact (.setKey 16 true) State.reset = .next State.reset := ⟨by decide, rfl⟩

theorem witness_ended : endedNormally (fetching 0x1200) = true := by decide

/-- A ROM one byte too long. -/
def bigRom : List Byte := List.replicate 3585 0

theorem romFits_bigRom : romFits bigRom = false := by
  rw [romFits, bigRom, List.length_replicate]; decide

/-- log 29: a refused load is not the one load, and one that is made is the last. -/
theorem test_host_duties_refused_load :
    hostDuties .cold [.reset, .load bigRom, .load [0x12, 0x00], .step] = true ∧
      hostDuties .cold [.reset, .load bigRom, .step] = false ∧
      hostDuties .cold [.reset, .load [0x12, 0x00], .load bigRom] = false := by
  rw [hostDuties, hostDuties, hostDuties_fresh_load_refused romFits_bigRom, hostDuties_fresh_load_refused romFits_bigRom]
  decide

theorem witness_dutiful_session_after_refused_load :
    hostDuties .cold (.reset :: [.load bigRom, .load [0x12, 0x00]]) = true ∧
      Transaction.load [0x12, 0x00] ∈ [.load bigRom, .load [0x12, 0x00]] ∧
      runSession (.reset :: [.load bigRom, .load [0x12, 0x00]]) stopped = .next (stopped.resetBlock.load [0x12, 0x00]) := by
  refine ⟨?_, by simp, ?_⟩
  · rw [hostDuties, hostDuties_fresh_load_refused romFits_bigRom]; decide
  · have h : stopped.resetBlock.load bigRom = stopped.resetBlock := by rw [State.load, romFits_bigRom]; rfl
    simp only [runSession, transact, h]

theorem witness_dutiful_session :
    hostDuties .cold (.reset :: [.tick, .load [0x12, 0x00], .setKey 15 true]) = true ∧
      Transaction.reset ∉ [.tick, .load [0x12, 0x00], .setKey 15 true] ∧
      Transaction.step ∉ [.tick, .load [0x12, 0x00], .setKey 15 true] ∧
      Transaction.load [0x12, 0x00] ∈ [.tick, .load [0x12, 0x00], .setKey 15 true] ∧
      ([0x12, 0x00] : List Byte).length ≤ 3584 ∧
      runSession (.reset :: [.tick, .load [0x12, 0x00], .setKey 15 true]) stopped =
        .next (nextOr State.reset (runSession (.reset :: [.tick, .load [0x12, 0x00], .setKey 15 true]) stopped)) :=
  ⟨by decide, by decide, by decide, by decide, by decide, rfl⟩

end Sys2Proof.Tests
end

section
/-! The timers and the keys (10_state.md R29, R30, R35): which instructions read or write them, and what the host's
transactions do to them. -/

namespace Sys2Proof.Machine

/-! The step, case by case (60_exceptions.md R217). -/

/-- Everything a step can do. -/
theorem step_cases (s : State) :
    (s.fault ≠ none ∧ step s = .next s) ∨
    (∃ i, s.fault = none ∧ decode s.fetchWord = .ok i ∧ step s = exec i s.advance) ∨
    (∃ e, s.fault = none ∧ decode s.fetchWord = .error e ∧ step s = .next s.advance) := by
  unfold step
  cases hf : s.fault with
  | some k => exact .inl ⟨by simp, rfl⟩
  | none =>
    cases hd : decode s.fetchWord with
    | ok i => exact .inr (.inl ⟨i, rfl, rfl, rfl⟩)
    | error e => exact .inr (.inr ⟨e, rfl, rfl, rfl⟩)

/-! Changing the timers and the keys of a state commutes with the operations that do not look at them. -/

/-- The state with its timers and its key flags changed. -/
def State.mapTimersKeys (fd fs : Byte → Byte) (fk : Vector Bool 16 → Vector Bool 16) (s : State) : State :=
  { s with dt := fd s.dt, st := fs s.st, key := fk s.key }

/-- The instructions that read or write a timer or read a key (10_state.md R29, R30, R35). -/
def usesTimersOrKeys : Instr → Bool
  | .skp _ | .sknp _ | .ldK _ | .ldVxDt _ | .ldDtVx _ | .ldStVx _ => true
  | _ => false

section mapTimersKeys

variable (fd fs : Byte → Byte) (fk : Vector Bool 16 → Vector Bool 16) (s : State)

theorem State.skipIf_mapTimersKeys (c : Bool) :
    (s.mapTimersKeys fd fs fk).skipIf c = (s.skipIf c).mapTimersKeys fd fs fk := by
  cases c <;> rfl

theorem State.storeRegs_mapTimersKeys (n : Nat) :
    (s.mapTimersKeys fd fs fk).storeRegs n = (s.storeRegs n).mapTimersKeys fd fs fk := by
  induction n with
  | zero => rfl
  | succ k ih => rw [State.storeRegs_succ, ih, State.storeRegs_succ]; rfl

theorem State.loadRegs_mapTimersKeys (n : Nat) :
    (s.mapTimersKeys fd fs fk).loadRegs n = (s.loadRegs n).mapTimersKeys fd fs fk := by
  induction n with
  | zero => rfl
  | succ k ih => rw [State.loadRegs_succ, ih, State.loadRegs_succ]; rfl

theorem pushAndJump_mapTimersKeys (target : Word) :
    pushAndJump target (s.mapTimersKeys fd fs fk) =
      mapNext (State.mapTimersKeys fd fs fk) (pushAndJump target s) := by
  by_cases h : s.sp.val < 16
  · simp [pushAndJump, h, State.mapTimersKeys, mapNext]
  · simp [pushAndJump, h, State.mapTimersKeys, mapNext, raiseFault]

theorem popIntoPc_mapTimersKeys (policy : StackUnderflowPolicy) :
    popIntoPc policy (s.mapTimersKeys fd fs fk) =
      mapNext (State.mapTimersKeys fd fs fk) (popIntoPc policy s) := by
  by_cases h : s.sp.val = 0
  · cases policy <;> simp [popIntoPc, h, State.mapTimersKeys, mapNext, raiseFault, State.setPc]
  · simp [popIntoPc, h, State.mapTimersKeys, mapNext]

/-- An instruction that uses no timer and no key does the same whatever they hold, and keeps them. -/
theorem exec_mapTimersKeys {i : Instr} (hi : usesTimersOrKeys i = false) :
    exec i (s.mapTimersKeys fd fs fk) = mapNext (State.mapTimersKeys fd fs fk) (exec i s) := by
  cases i with
  | skp | sknp | ldK | ldVxDt | ldDtVx | ldStVx => cases hi
  | call nnn => exact pushAndJump_mapTimersKeys fd fs fk s _
  | ret => exact popIntoPc_mapTimersKeys fd fs fk s Config.default.stackUnderflow
  | seImm | sneImm | seReg | sneReg =>
    exact congrArg Host.Outcome.next (State.skipIf_mapTimersKeys fd fs fk s _)
  | ldStore x => exact congrArg Host.Outcome.next (State.storeRegs_mapTimersKeys fd fs fk s _)
  | ldLoad x => exact congrArg Host.Outcome.next (State.loadRegs_mapTimersKeys fd fs fk s _)
  | _ => rfl

end mapTimersKeys

/-! The instructions that read a key (43_keys_timers.md R160 to R162), one equation for each case. -/

/-- What SKP and SKNP share: `test` says of the named key's state whether the next instruction is skipped. -/
def skipOnKey (policy : KeyIndexPolicy) (test : Bool → Bool) (x : Index) (s : State) :
    Host.Outcome State Fault Refusal :=
  match s.keyState policy (s.reg x) with
  | some pressed => .next (s.skipIf (test pressed))
  | none         => raiseFault .keyIndexOutOfRange s

theorem exec_skp (x : Index) (s : State) : exec (.skp x) s = skipOnKey Config.default.keyIndex id x s := rfl

theorem exec_sknp (x : Index) (s : State) : exec (.sknp x) s = skipOnKey Config.default.keyIndex not x s := rfl

section keyReaders

variable {policy : KeyIndexPolicy} {test : Bool → Bool} {x : Index} {s : State}

theorem skipOnKey_of_some {pressed : Bool} (h : s.keyState policy (s.reg x) = some pressed) :
    skipOnKey policy test x s = .next (s.skipIf (test pressed)) := by
  simp only [skipOnKey, h]

theorem skipOnKey_of_none (h : s.keyState policy (s.reg x) = none) :
    skipOnKey policy test x s = raiseFault .keyIndexOutOfRange s := by
  simp only [skipOnKey, h]

theorem execLdK_of_none (h : s.lowestKey = none) : execLdK x s = .next (s.setPc (s.pc - 2)) := by
  simp only [execLdK, h]

theorem execLdK_of_some {k : Index} (h : s.lowestKey = some k) :
    execLdK x s = .next (s.setReg x (BitVec.ofNat 8 k.val)) := by
  simp only [execLdK, h]

theorem key_of_skipOnKey {t : State} (ht : skipOnKey policy test x s = .next t) : t.key = s.key := by
  cases h : s.keyState policy (s.reg x) with
  | some pressed => cases (skipOnKey_of_some h).symm.trans ht; exact State.key_skipIf s _
  | none => cases (skipOnKey_of_none h).symm.trans ht; rfl

theorem key_of_execLdK {t : State} (ht : execLdK x s = .next t) : t.key = s.key := by
  cases h : s.lowestKey with
  | none => cases (execLdK_of_none h).symm.trans ht; rfl
  | some k => cases (execLdK_of_some h).symm.trans ht; rfl

end keyReaders

section mapTimers

variable (fd fs : Byte → Byte) (policy : KeyIndexPolicy) (test : Bool → Bool) (x : Index) (s : State)

theorem skipOnKey_mapTimers :
    skipOnKey policy test x (s.mapTimersKeys fd fs id) =
      mapNext (State.mapTimersKeys fd fs id) (skipOnKey policy test x s) := by
  cases h : s.keyState policy (s.reg x) with
  | some pressed =>
    rw [skipOnKey_of_some h, skipOnKey_of_some (s := s.mapTimersKeys fd fs id) h, State.skipIf_mapTimersKeys]
    rfl
  | none => rw [skipOnKey_of_none h, skipOnKey_of_none (s := s.mapTimersKeys fd fs id) h]; rfl

theorem execLdK_mapTimers :
    execLdK x (s.mapTimersKeys fd fs id) = mapNext (State.mapTimersKeys fd fs id) (execLdK x s) := by
  cases h : s.lowestKey with
  | none => rw [execLdK_of_none h, execLdK_of_none (s := s.mapTimersKeys fd fs id) h]; rfl
  | some k => rw [execLdK_of_some h, execLdK_of_some (s := s.mapTimersKeys fd fs id) h]; rfl

/-- An instruction that is none of the three timer instructions does the same whatever the timers hold, and keeps
them (10_state.md R29, R30). -/
theorem exec_mapTimers {i : Instr} (hget : ∀ x, i ≠ .ldVxDt x) (hdt : ∀ x, i ≠ .ldDtVx x)
    (hst : ∀ x, i ≠ .ldStVx x) :
    exec i (s.mapTimersKeys fd fs id) = mapNext (State.mapTimersKeys fd fs id) (exec i s) := by
  cases i with
  | ldVxDt x => exact absurd rfl (hget x)
  | ldDtVx x => exact absurd rfl (hdt x)
  | ldStVx x => exact absurd rfl (hst x)
  | skp x => simp only [exec_skp, skipOnKey_mapTimers]
  | sknp x => simp only [exec_sknp, skipOnKey_mapTimers]
  | ldK x => exact execLdK_mapTimers fd fs x s
  | _ => exact exec_mapTimersKeys fd fs id s rfl

end mapTimers

/-! The keys are kept by every instruction and by every transaction that is not the host's write (10_state.md R35). -/

/-- No instruction changes the keys: one that does not look at them puts back whatever it is given, and the others
write V, pc, a timer or the fault status. -/
theorem key_of_exec {i : Instr} {s t : State} (h : exec i s = .next t) : t.key = s.key := by
  cases hi : usesTimersOrKeys i with
  | false =>
    have hput : exec i s = mapNext (State.mapTimersKeys id id fun _ => s.key) (exec i s) :=
      exec_mapTimersKeys id id (fun _ => s.key) s hi
    rw [h, mapNext, Host.Outcome.next.injEq] at hput
    calc t.key = (t.mapTimersKeys id id fun _ => s.key).key := congrArg State.key hput
      _ = s.key := rfl
  | true =>
    cases i with
    | skp x => exact key_of_skipOnKey ((exec_skp x s).symm.trans h)
    | sknp x => exact key_of_skipOnKey ((exec_sknp x s).symm.trans h)
    | ldK x => exact key_of_execLdK h
    | ldVxDt | ldDtVx | ldStVx => cases h; rfl
    | _ => cases hi

theorem key_of_step {s t : State} (h : step s = .next t) : t.key = s.key := by
  obtain ⟨-, hs⟩ | ⟨i, -, -, hs⟩ | ⟨e, -, -, hs⟩ := step_cases s <;> rw [hs] at h
  · cases h; rfl
  · exact (key_of_exec h).trans s.key_advance
  · cases h; rfl

theorem key_of_transact {tr : Transaction} {s t : State} (hset : ∀ k p, tr ≠ .setKey k p) (hreset : tr ≠ .reset)
    (h : transact tr s = .next t) : t.key = s.key := by
  cases tr with
  | setKey k p => exact absurd rfl (hset k p)
  | reset => exact absurd rfl hreset
  | step => exact key_of_step h
  | load rom => cases h; exact s.key_load rom
  | tick => cases h; rfl
  | snapshot => cases h; rfl

/-- The key named is set and no other (60_exceptions.md R219). -/
theorem State.keyPressed_setKey_of_index (s : State) (k : Index) (p : Bool) (j : Index) :
    (s.setKey k.val p).keyPressed j = if j = k then p else s.keyPressed j := by
  simp only [State.setKey, k.isLt, dite_true, State.keyPressed, Vector.getElem_set, Fin.ext_iff, eq_comm]

theorem sameBut_setKey (s : State) (k : Nat) (p : Bool) : sameBut [.key] s (s.setKey k p) := by
  intro part hpart
  cases part with
  | key => exact absurd (List.mem_singleton_self _) hpart
  | _ => simp [Part.same]

/-! The sound timer. -/

theorem sameBut_st (s : State) (b : Byte) : sameBut [.st] s { s with st := b } := by
  intro part hpart
  cases part with
  | st => exact absurd (List.mem_singleton_self _) hpart
  | v | stack | mem | key => exact fun _ => rfl
  | fb => exact fun _ _ => rfl
  | _ => exact rfl

/-- A tick takes one off, floored at 0 (60_exceptions.md R209, R210). -/
theorem toNat_countDown (b : Byte) : (countDown b).toNat = b.toNat - 1 := by
  unfold countDown
  split
  · next h => exact BitVec.toNat_sub_of_le (BitVec.le_def.mpr h)
  · next h => omega

end Sys2Proof.Machine
end

section
/-! The obligations on the keys and the sound timer (10_state.md R30, R35). -/

open Sys2Proof Sys2Proof.Machine

/-- Settles O25: the frame of the keys over instructions and transactions, and, for the instructions that read no key,
that they commute with any change of the keys. -/
theorem keysAreWrittenByTheHostOnly : Obligations.KeysAreWrittenByTheHostOnly := by
  refine ⟨fun i s t h => key_of_exec h,
    fun k p s => ⟨s.setKey k.val p, rfl, s.keyPressed_setKey_of_index k p, sameBut_setKey s k.val p⟩,
    fun tr s t hset hreset h => key_of_transact hset hreset h, fun i s ks hskp hsknp hldK => ?_⟩
  cases i with
  | skp x => exact absurd rfl (hskp x)
  | sknp x => exact absurd rfl (hsknp x)
  | ldK x => exact absurd rfl (hldK x)
  | ldVxDt | ldDtVx | ldStVx => rfl
  | _ => exact exec_mapTimersKeys id id (fun _ => ks) s rfl

/-- Settles O26: LD ST writes the timer whatever it held, a tick counts it down, and every other instruction commutes
with any change of it. -/
theorem soundTimerIsWrittenAndNeverRead : Obligations.SoundTimerIsWrittenAndNeverRead := by
  refine ⟨fun x s => ⟨{ s with st := s.reg x }, rfl, rfl, sameBut_st s _⟩,
    fun s => ⟨s.tick, rfl, toNat_countDown s.st⟩, fun i s b hst => ?_, fun x s b => rfl⟩
  cases i with
  | ldStVx x => exact absurd rfl (hst x)
  | ldVxDt | ldDtVx => rfl
  | _ => exact exec_mapTimers id (fun _ => b) s (by simp) (by simp) (by simp)

end

section
/-! Memory (20_memory.md R50, R52): how a step reads its instruction from it, which instructions reach it, and that a write
to it reaches nothing else. -/

namespace Sys2Proof.Machine

/-- A step that is not faulted and fetches a known word executes it (30_encoding.md R72 to R75). -/
theorem step_of_decode {s : State} {i : Instr} (hf : s.fault = none) (hd : decode s.fetchWord = .ok i) :
    step s = exec i s.advance := by
  simp only [step, hf, hd]

/-! Replacing memory commutes with the operations that do not look at it. -/

/-- The state with its memory replaced. -/
def State.withMem (m : Memory) (s : State) : State := { s with mem := m }

section withMem

variable (m : Memory) (s : State)

theorem State.skipIf_withMem (c : Bool) : (s.withMem m).skipIf c = (s.skipIf c).withMem m := by
  cases c <;> rfl

theorem pushAndJump_withMem (target : Word) :
    pushAndJump target (s.withMem m) = mapNext (State.withMem m) (pushAndJump target s) := by
  by_cases h : s.sp.val < 16
  · simp [pushAndJump, h, State.withMem, mapNext]
  · simp [pushAndJump, h, State.withMem, mapNext, raiseFault]

theorem popIntoPc_withMem (policy : StackUnderflowPolicy) :
    popIntoPc policy (s.withMem m) = mapNext (State.withMem m) (popIntoPc policy s) := by
  by_cases h : s.sp.val = 0
  · cases policy <;> simp [popIntoPc, h, State.withMem, mapNext, raiseFault, State.setPc]
  · simp [popIntoPc, h, State.withMem, mapNext]

theorem skipOnKey_withMem (policy : KeyIndexPolicy) (test : Bool → Bool) (x : Index) :
    skipOnKey policy test x (s.withMem m) = mapNext (State.withMem m) (skipOnKey policy test x s) := by
  cases h : s.keyState policy (s.reg x) with
  | some pressed =>
    rw [skipOnKey_of_some h, skipOnKey_of_some (s := s.withMem m) h, State.skipIf_withMem]
    rfl
  | none => rw [skipOnKey_of_none h, skipOnKey_of_none (s := s.withMem m) h]; rfl

theorem execLdK_withMem (x : Index) :
    execLdK x (s.withMem m) = mapNext (State.withMem m) (execLdK x s) := by
  cases h : s.lowestKey with
  | none => rw [execLdK_of_none h, execLdK_of_none (s := s.withMem m) h]; rfl
  | some k => rw [execLdK_of_some h, execLdK_of_some (s := s.withMem m) h]; rfl

/-- An instruction other than the four of 20_memory.md R50 does the same whatever memory holds, and keeps it. -/
theorem exec_withMem {i : Instr} (hdrw : ∀ x y n, i ≠ .drw x y n) (hldB : ∀ x, i ≠ .ldB x)
    (hstore : ∀ x, i ≠ .ldStore x) (hload : ∀ x, i ≠ .ldLoad x) :
    exec i (s.withMem m) = mapNext (State.withMem m) (exec i s) := by
  cases i with
  | drw x y n => exact absurd rfl (hdrw x y n)
  | ldB x => exact absurd rfl (hldB x)
  | ldStore x => exact absurd rfl (hstore x)
  | ldLoad x => exact absurd rfl (hload x)
  | call nnn => exact pushAndJump_withMem m s _
  | ret => exact popIntoPc_withMem m s Config.default.stackUnderflow
  | seImm | sneImm | seReg | sneReg => exact congrArg Host.Outcome.next (State.skipIf_withMem m s _)
  | skp x => exact skipOnKey_withMem m s Config.default.keyIndex id x
  | sknp x => exact skipOnKey_withMem m s Config.default.keyIndex not x
  | ldK x => exact execLdK_withMem m s x
  | _ => rfl

end withMem

/-! What leaves memory, and what leaves everything but memory. -/

/-- Only LD B and LD [I] write memory: DRW and LD Vx, [I] read it, and every other instruction puts back whatever memory
it is given. -/
theorem mem_of_exec {i : Instr} {s t : State} (hldB : ∀ x, i ≠ .ldB x) (hstore : ∀ x, i ≠ .ldStore x)
    (h : exec i s = .next t) : t.mem = s.mem := by
  have put_back (hi : exec i s = mapNext (State.withMem s.mem) (exec i s)) : t.mem = s.mem := by
    rw [h, mapNext, Host.Outcome.next.injEq] at hi
    calc t.mem = (t.withMem s.mem).mem := congrArg State.mem hi
      _ = s.mem := rfl
  cases i with
  | ldB x => exact absurd rfl (hldB x)
  | ldStore x => exact absurd rfl (hstore x)
  | drw x y n => cases h; rfl
  | ldLoad x =>
    cases h
    obtain ⟨u, hu⟩ := s.loadRegs_eq (x.val + 1)
    rw [hu]
  | _ => exact put_back (exec_withMem s.mem s (by simp) (by simp) (by simp) (by simp))

theorem sameBut_withMem (m : Memory) (s : State) : sameBut [.mem] s (s.withMem m) := by
  intro part hpart
  cases part with
  | mem => exact absurd (List.mem_singleton_self _) hpart
  | v | stack | key => exact fun _ => rfl
  | fb => exact fun _ _ => rfl
  | _ => exact rfl

theorem exec_ldB_eq_withMem (x : Index) (s : State) : ∃ m, exec (.ldB x) s = .next (s.withMem m) := ⟨_, rfl⟩

theorem exec_ldStore_eq_withMem (x : Index) (s : State) : ∃ m, exec (.ldStore x) s = .next (s.withMem m) := by
  obtain ⟨m, hm⟩ := s.storeRegs_eq (x.val + 1)
  exact ⟨m, congrArg Host.Outcome.next hm⟩

end Sys2Proof.Machine
end

section
/-! The obligations on memory (20_memory.md R50, R52; 30_encoding.md R73). -/

open Sys2Proof Sys2Proof.Machine

/-- Settles O23: all but four instructions commute with any replacement of memory, only the two stores write it, and what
a store does is to replace it. -/
theorem memoryIsReachedOnlyByItsInstructions : Obligations.MemoryIsReachedOnlyByItsInstructions := by
  refine ⟨fun i s m hdrw hldB hstore hload => exec_withMem m s hdrw hldB hstore hload,
    fun i s t hldB hstore h => mem_of_exec hldB hstore h, fun x s => ⟨?_, ?_⟩⟩
  · obtain ⟨m, hm⟩ := exec_ldB_eq_withMem x s
    exact ⟨s.withMem m, hm, sameBut_withMem m s⟩
  · obtain ⟨m, hm⟩ := exec_ldStore_eq_withMem x s
    exact ⟨s.withMem m, hm, sameBut_withMem m s⟩

/-- Settles O12: the word fetched is the two bytes at pc, high byte first, and a step executes what it decodes to. -/
theorem stepRunsTheDecodedInstruction : Obligations.StepRunsTheDecodedInstruction := by
  intro s hi lo i hf hhi hlo hd
  have hword : s.fetchWord = hi ++ lo := by rw [← hhi, ← hlo]; rfl
  exact step_of_decode hf (hword ▸ hd)

end

section
/-! Control flow (40_control_flow.md R102 to R109, R235): what a jump and a skip leave of the state, and where pc stands when
an instruction acts inside a step. -/

namespace Sys2Proof.Machine

/-! Jumps and skips write pc only. -/

theorem toNat_addrOf (nnn : Addr12) : (addrOf nnn).toNat = nnn.toNat :=
  BitVec.toNat_setWidth_of_le (by decide)

theorem sameBut_setPc (s : State) (target : Word) : sameBut [.pc] s (s.setPc target) := by
  intro part hpart
  cases part with
  | pc => exact absurd (List.mem_singleton_self _) hpart
  | _ => simp [Part.same]

theorem sameBut_skipIf (s : State) (c : Bool) : sameBut [.pc] s (s.skipIf c) := by
  cases c with
  | false => exact sameBut_setPc s s.pc
  | true => exact sameBut_setPc s (s.pc + 2)

/-- A skip whose test decides `p`. -/
theorem State.pc_skipIf_of_iff (s : State) {c : Bool} {p : Prop} [Decidable p] (hp : c = true ↔ p) :
    (s.skipIf c).pc = if p then s.pc + 2 else s.pc := by
  simp only [State.pc_skipIf, hp]

/-! Inside a step pc has advanced by 2 when the instruction acts (30_encoding.md R73). -/

/-- A step that skips on a test deciding `p` lands 4 or 2 past the fetch (40_control_flow.md R109). -/
theorem pc_of_step_skip {s : State} {i : Instr} {c : Bool} {p : Prop} [Decidable p] (hf : s.fault = none)
    (hd : decode s.fetchWord = .ok i) (hexec : exec i s.advance = .next (s.advance.skipIf c)) (hp : c = true ↔ p) :
    ∃ t, step s = .next t ∧ t.pc = s.pc + (if p then 4 else 2) := by
  refine ⟨s.advance.skipIf c, (step_of_decode hf hd).trans hexec, ?_⟩
  rw [State.pc_skipIf_of_iff _ hp, State.pc_advance]
  split
  · exact BitVec.add_assoc s.pc 2 2
  · rfl

/-- A register value up to 15 names its key under every policy (43_keys_timers.md R166). -/
theorem State.keyState_of_toNat_eq (s : State) (policy : KeyIndexPolicy) {v : Byte} {k : Index} (h : v.toNat = k.val) :
    s.keyState policy v = some (s.keyPressed k) := by
  have hlt : v.toNat < 16 := h ▸ k.isLt
  have hk : (⟨v.toNat, hlt⟩ : Index) = k := Fin.ext h
  rw [State.keyState_of_lt s policy hlt, hk]

/-- A key test inside a step, on the key that V[x] names, is a skip. -/
theorem skipOnKey_advance_of_toNat_eq (policy : KeyIndexPolicy) (test : Bool → Bool) {x k : Index} {s : State}
    (h : (s.reg x).toNat = k.val) :
    skipOnKey policy test x s.advance = .next (s.advance.skipIf (test (s.keyPressed k))) :=
  skipOnKey_of_some (s.advance.keyState_of_toNat_eq policy h)

/-- A push below the capacity stores pc at the entry SP names (40_control_flow.md R103). -/
theorem stackEntry_of_pushAndJump (target : Word) {s : State} {k : Index} (hsp : s.sp.val = k.val) :
    ∃ t, pushAndJump target s = .next t ∧ t.stackEntry k = s.pc := by
  obtain ⟨_, hpush⟩ | ⟨hfull, -⟩ := pushAndJump_cases target s
  · exact ⟨_, hpush, by simp [State.stackEntry, hsp]⟩
  · omega

end Sys2Proof.Machine
end

section
/-! The obligations on control flow (40_control_flow.md R102, R104, R105, R109; 70_reset_and_hazards.md R235). -/

open Sys2Proof Sys2Proof.Machine

/-- Settles O28: JP is one write of pc. -/
theorem jpGoesToItsTarget : Obligations.JpGoesToItsTarget :=
  fun nnn s => ⟨s.setPc (addrOf nnn), rfl, toNat_addrOf nnn, sameBut_setPc s _⟩

/-- Settles O33: both are `skipIf` of a test that decides the condition. -/
theorem immediateSkipsAddTwo : Obligations.ImmediateSkipsAddTwo := by
  refine fun x kk s => ⟨⟨s.skipIf (s.reg x == kk), rfl, s.pc_skipIf_of_iff beq_iff_eq, sameBut_skipIf s _⟩,
    s.skipIf (s.reg x != kk), rfl, ?_, sameBut_skipIf s _⟩
  rw [s.pc_skipIf_of_iff bne_iff_ne, ite_not]

/-- Settles O17: the six skips act on the advanced pc, CALL pushes it, and a key wait takes the advance back. -/
theorem pcOrderInsideAStep : Obligations.PcOrderInsideAStep := by
  refine fun s hf => ⟨fun x kk hd => pc_of_step_skip hf hd rfl beq_iff_eq,
    fun x kk hd => pc_of_step_skip hf hd rfl bne_iff_ne,
    fun x y hd => pc_of_step_skip hf hd rfl beq_iff_eq,
    fun x y hd => pc_of_step_skip hf hd rfl bne_iff_ne,
    fun x k hd hk => pc_of_step_skip hf hd (skipOnKey_advance_of_toNat_eq _ id hk) Iff.rfl,
    fun x k hd hk => ?sknp, fun nnn k hd hk => ?call, fun x hd hnone => ?wait⟩
  case sknp =>
    simpa only [ite_not] using
      pc_of_step_skip hf hd (skipOnKey_advance_of_toNat_eq _ not hk) Bool.not_iff_not
  case call =>
    obtain ⟨t, hpush, hentry⟩ := stackEntry_of_pushAndJump (addrOf nnn) (s := s.advance) hk
    exact ⟨t, (step_of_decode hf hd).trans hpush, hentry⟩
  case wait =>
    have hkey : s.advance.lowestKey = none := s.advance.lowestKey_eq_none.mpr hnone
    exact ⟨_, (step_of_decode hf hd).trans (execLdK_of_none hkey), BitVec.add_sub_cancel s.pc 2⟩

end

section
/-! The registers (41_alu.md R120 to R125): what a write of one register gives and leaves of the state. -/

namespace Sys2Proof.Machine

theorem State.reg_setReg_self (s : State) (x : Index) (b : Byte) : (s.setReg x b).reg x = b := by
  rw [State.reg_setReg, if_pos rfl]

/-- A write of one register keeps the fifteen others and every part but the registers. -/
theorem frame_setReg (s : State) (x : Index) (b : Byte) :
    regsSameBut [x] s (s.setReg x b) ∧ sameBut [.v] s (s.setReg x b) := by
  constructor
  · intro r hr
    rw [State.reg_setReg, if_neg (List.ne_of_not_mem_cons hr)]
  · intro part hpart
    cases part with
    | v => exact absurd (List.mem_singleton_self _) hpart
    | _ => simp [Part.same]

end Sys2Proof.Machine
end

section
/-! The obligations on the loads, the immediate addition and the logic (41_alu.md R120 to R125). -/

open Sys2Proof Sys2Proof.Machine

/-- Settles O35: both are one write of V[x]. -/
theorem loadImmediateAndCopy : Obligations.LoadImmediateAndCopy :=
  ⟨fun x kk s => ⟨s.setReg x kk, rfl, s.reg_setReg_self x kk, frame_setReg s x kk⟩,
    fun x y s => ⟨s.setReg x (s.reg y), rfl, s.reg_setReg_self x _, frame_setReg s x _⟩⟩

/-- Settles O36: one write of V[x], of the 8-bit sum, which `BitVec` reduces mod 256. -/
theorem addImmediateWraps : Obligations.AddImmediateWraps := by
  refine fun x kk s => ⟨s.setReg x (s.reg x + kk), rfl, ?_, frame_setReg s x _⟩
  rw [State.reg_setReg_self, BitVec.toNat_add]

/-- Settles O37: each is one write of V[x], of a byte whose bits are the operation's on the bits of V[x] and V[y]. -/
theorem logicIsBitwiseWithoutFlag : Obligations.LogicIsBitwiseWithoutFlag := by
  refine fun x y s => ⟨⟨s.setReg x (s.reg x ||| s.reg y), rfl, fun b => ?_, frame_setReg s x _⟩,
    ⟨s.setReg x (s.reg x &&& s.reg y), rfl, fun b => ?_, frame_setReg s x _⟩,
    s.setReg x (s.reg x ^^^ s.reg y), rfl, fun b => ?_, frame_setReg s x _⟩
  · rw [State.reg_setReg_self, BitVec.getLsbD_or]
  · rw [State.reg_setReg_self, BitVec.getLsbD_and]
  · rw [State.reg_setReg_self, BitVec.getLsbD_xor]

end

section
/-! The drawing of a sprite as one toggle of a set of pixels (42_display.md R142, R143). -/

namespace Sys2Proof.Machine

/-- `e` is the drawing `d` after toggling each pixel of the set `covered` once: exactly those pixels change, and the collision
bit is set when it was set before or one of them was ON. -/
def Toggles (covered : Nat → Nat → Bool) (d e : Drawing) : Prop :=
  (∀ row col, e.1.pixel row col = (d.1.pixel row col ^^ covered row col)) ∧
  (e.2 = true ↔ d.2 = true ∨ ∃ row col, covered row col = true ∧ d.1.pixel row col = true)

/-- Toggling no pixel changes nothing. -/
theorem Toggles.refl {covered : Nat → Nat → Bool} (d : Drawing) (hnone : ∀ row col, covered row col = false) :
    Toggles covered d d := by
  simp [Toggles, hnone]

/-- Toggling two disjoint sets in turn toggles their union: no pixel of the second has changed when its turn comes. -/
theorem Toggles.trans {first second union : Nat → Nat → Bool} {d e f : Drawing} (hde : Toggles first d e)
    (hef : Toggles second e f) (hdisjoint : ∀ row col, first row col = true → second row col = false)
    (hunion : ∀ row col, union row col = (first row col || second row col)) : Toggles union d f := by
  obtain ⟨hpixDE, hcolDE⟩ := hde
  obtain ⟨hpixEF, hcolEF⟩ := hef
  have huntouched : ∀ row col, second row col = true → e.1.pixel row col = d.1.pixel row col := by
    intro row col hsecond
    have hfirst : first row col = false :=
      Bool.eq_false_iff.mpr fun htrue => Bool.false_ne_true ((hdisjoint row col htrue).symm.trans hsecond)
    rw [hpixDE, hfirst, Bool.xor_false]
  constructor
  · intro row col
    rw [hpixEF, hpixDE, hunion, Bool.xor_assoc]
    cases hfirst : first row col with
    | false => rw [Bool.false_xor, Bool.false_or]
    | true => rw [hdisjoint row col hfirst, Bool.xor_false, Bool.or_false]
  · have hsecondOn : (∃ row col, second row col = true ∧ e.1.pixel row col = true) ↔
        ∃ row col, second row col = true ∧ d.1.pixel row col = true :=
      exists₂_congr fun row col => and_congr_right fun h => by rw [huntouched row col h]
    simp only [hcolEF, hcolDE, hsecondOn, hunion, Bool.or_eq_true, or_and_right, exists_or, or_assoc]

/-! The three sets: one pixel, the first bits of one sprite byte, the rows of a sprite. -/

/-- Whether (r, c) is the pixel (row, col) of the grid. -/
def pixelCovers (row col r c : Nat) : Bool := decide (r = row ∧ c = col ∧ row < 32 ∧ col < 64)

/-- Whether bits 0 to n - 1 of a byte, drawn in row `row` from column `cx`, have a 1 on the pixel (r, c). -/
def bitsCover (row cx : Nat) (byte : Byte) (n r c : Nat) : Bool :=
  decide (r = row ∧ r < 32 ∧ c < 64 ∧ cx ≤ c ∧ c < cx + n) && byte.getLsbD (7 - (c - cx))

/-- Whether the rows of a sprite, drawn from (row, cx) down, have a 1 on the pixel (r, c). -/
def rowsCover (cx row : Nat) (rows : List Byte) (r c : Nat) : Bool :=
  decide (r < 32 ∧ c < 64 ∧ row ≤ r ∧ cx ≤ c ∧ c < cx + 8) && (rows[r - row]?).any (·.getLsbD (7 - (c - cx)))

/-- The first n bits lie in the byte's row, left of column cx + n. -/
theorem row_col_of_bitsCover {row cx : Nat} {byte : Byte} {n r c : Nat} (h : bitsCover row cx byte n r c = true) :
    r = row ∧ c < cx + n := by
  obtain ⟨hrow, -, -, -, hcol⟩ := of_decide_eq_true (Bool.and_eq_true_iff.mp h).1
  exact ⟨hrow, hcol⟩

/-- One more bit adds its pixel, if it is a 1. -/
theorem bitsCover_succ (row cx : Nat) (byte : Byte) (n r c : Nat) :
    bitsCover row cx byte (n + 1) r c =
      (bitsCover row cx byte n r c || (byte.getLsbD (7 - n) && pixelCovers row (cx + n) r c)) := by
  by_cases hcol : c = cx + n
  · subst hcol
    by_cases hrow : r = row
    · simp [bitsCover, pixelCovers, hrow, Bool.and_comm]
    · simp [bitsCover, pixelCovers, hrow]
  · have hlt : c < cx + (n + 1) ↔ c < cx + n := by omega
    simp [bitsCover, pixelCovers, hcol, hlt]

/-- One more row adds its bits. -/
theorem rowsCover_cons (cx row : Nat) (byte : Byte) (rest : List Byte) (r c : Nat) :
    rowsCover cx row (byte :: rest) r c = (bitsCover row cx byte 8 r c || rowsCover cx (row + 1) rest r c) := by
  obtain habove | rfl | hbelow := lt_trichotomy r row
  · simp [rowsCover, bitsCover, show ¬row ≤ r by omega, show ¬row + 1 ≤ r by omega, habove.ne]
  · simp [rowsCover, bitsCover]
  · have hindex : r - row = (r - (row + 1)) + 1 := by omega
    simp [rowsCover, bitsCover, hbelow.ne', hindex, hbelow.le, Nat.succ_le_of_lt hbelow]

theorem spriteCovers_eq_rowsCover (x0 y0 : Byte) (rows : List Byte) (row col : Nat) :
    spriteCovers x0 y0 rows row col = rowsCover (x0.toNat % 64) (y0.toNat % 32) rows row col := by
  unfold spriteCovers rowsCover
  cases rows[row - y0.toNat % 32]? <;> simp [Bool.and_assoc]

/-! Each drawing operation toggles its set. -/

theorem toggles_togglePixel (d : Drawing) (row col : Nat) :
    Toggles (pixelCovers row col) d (togglePixel d row col) := by
  constructor
  · intro r c
    rw [pixel_togglePixel, pixelCovers]
    split <;> simp [*]
  · rw [collision_togglePixel, Bool.or_eq_true]
    refine or_congr_right ⟨fun hon => ⟨row, col, ?_, hon⟩, ?_⟩
    · have hin : row < 32 ∧ col < 64 :=
        of_not_not fun hout => Bool.false_ne_true ((Framebuffer.pixel_outside _ hout).symm.trans hon)
      simp [pixelCovers, hin]
    · rintro ⟨r, c, hcovers, hon⟩
      obtain ⟨rfl, rfl, -⟩ := of_decide_eq_true hcovers
      exact hon

/-- By induction on the number of bits, each of them on a column of its own. -/
theorem toggles_drawBits (d : Drawing) (row cx : Nat) (byte : Byte) (n : Nat) :
    Toggles (bitsCover row cx byte n) d (drawBits d row cx byte n) := by
  induction n with
  | zero => exact .refl d fun r c => by simp [bitsCover]
  | succ n ih =>
    rw [drawBits]
    cases hbit : byte.getLsbD (7 - n) with
    | false =>
      have hsame : bitsCover row cx byte (n + 1) = bitsCover row cx byte n := by
        funext r c
        rw [bitsCover_succ, hbit, Bool.false_and, Bool.or_false]
      rw [hsame]
      exact ih
    | true =>
      refine ih.trans (toggles_togglePixel _ row (cx + n)) (fun r c hearlier => ?_) fun r c => ?_
      · obtain ⟨-, hleft⟩ := row_col_of_bitsCover hearlier
        exact decide_eq_false (by omega)
      · rw [bitsCover_succ, hbit, Bool.true_and]

/-- By induction on the rows, each of them in a row of its own. -/
theorem toggles_drawRows (d : Drawing) (cx row : Nat) (rows : List Byte) :
    Toggles (rowsCover cx row rows) d (drawRows d cx row rows) := by
  induction rows generalizing d row with
  | nil => exact .refl d fun r c => by simp [rowsCover]
  | cons byte rest ih =>
    refine (toggles_drawBits d row cx byte 8).trans (ih _ (row + 1)) (fun r c hfirst => ?_)
      (rowsCover_cons cx row byte rest)
    obtain ⟨rfl, -⟩ := row_col_of_bitsCover hfirst
    simp [rowsCover]

/-- DrawSprite toggles what the sprite covers (42_display.md R142, R143). -/
theorem toggles_drawSprite (fb : Framebuffer) (x0 y0 : Byte) (rows : List Byte) :
    Toggles (spriteCovers x0 y0 rows) (fb, false) (drawSprite fb x0 y0 rows) := by
  have hcovers : spriteCovers x0 y0 rows = rowsCover (x0.toNat % 64) (y0.toNat % 32) rows :=
    funext₂ (spriteCovers_eq_rowsCover x0 y0 rows)
  rw [hcovers]
  exact toggles_drawRows (fb, false) _ _ rows

/-- A new screen leaves every other part of the state. -/
theorem sameBut_fb (s : State) (fb : Framebuffer) : sameBut [.fb] s { s with fb := fb } := by
  intro part hpart
  cases part with
  | fb => exact absurd (List.mem_singleton_self _) hpart
  | v | stack | mem | key => exact fun _ => rfl
  | _ => exact rfl

end Sys2Proof.Machine
end

section
/-! The obligations on clearing the screen and on DrawSprite (42_display.md R140, R142, R143). -/

open Sys2Proof Sys2Proof.Machine

/-- Settles O43: `Toggles` of the covered pixels, from a drawing whose collision bit is clear. -/
theorem drawSpriteTogglesCoveredPixels : Obligations.DrawSpriteTogglesCoveredPixels := by
  intro fb x0 y0 rows
  obtain ⟨hpixel, hcollision⟩ := toggles_drawSprite fb x0 y0 rows
  exact ⟨hpixel, by simpa using hcollision⟩

/-- Settles O42: CLS is one write of the screen, of the clear one. -/
theorem clsTurnsEveryPixelOff : Obligations.ClsTurnsEveryPixelOff :=
  fun s => ⟨{ s with fb := Framebuffer.clear }, rfl, Framebuffer.pixel_clear, sameBut_fb s Framebuffer.clear⟩

end

section
/-! The delay timer (10_state.md R29): what a write of it leaves of the state. -/

namespace Sys2Proof.Machine

/-- A new delay timer leaves every other part of the state. -/
theorem sameBut_dt (s : State) (b : Byte) : sameBut [.dt] s { s with dt := b } := by
  intro part hpart
  cases part with
  | dt => exact absurd (List.mem_singleton_self _) hpart
  | v | stack | mem | key => exact fun _ => rfl
  | fb => exact fun _ _ => rfl
  | _ => exact rfl

end Sys2Proof.Machine
end

section
/-! The obligation on the moves of the delay timer (43_keys_timers.md R163, R164). -/

open Sys2Proof Sys2Proof.Machine

/-- Settles O50: the read is one write of V[x], with DT; the other is one write of DT, with V[x]. -/
theorem delayTimerMoves : Obligations.DelayTimerMoves :=
  fun x s => ⟨⟨s.setReg x s.dt, rfl, s.reg_setReg_self x s.dt, frame_setReg s x s.dt⟩,
    { s with dt := s.reg x }, rfl, rfl, sameBut_dt s (s.reg x)⟩

end

section
/-! The machine under a configuration (00_scope.md R7, section 4; 60_exceptions.md R217): that every step completes, and that
at the default parameters it is the machine. -/

namespace Sys2Proof.Machine

/-! Each shared operation that can branch answers a next state; a fault it raises is one (60_exceptions.md R203). -/

theorem pushAndJump_completes (target : Word) (s : State) : ∃ t, pushAndJump target s = .next t := by
  obtain ⟨_, h⟩ | ⟨_, h⟩ := pushAndJump_cases target s
  · exact ⟨_, h⟩
  · exact ⟨_, h⟩

theorem popIntoPc_completes (policy : StackUnderflowPolicy) (s : State) : ∃ t, popIntoPc policy s = .next t := by
  obtain ⟨_, h⟩ | ⟨_, _, h⟩ | ⟨_, _, h⟩ := popIntoPc_cases policy s
  · exact ⟨_, h⟩
  · exact ⟨_, h⟩
  · exact ⟨_, h⟩

theorem skipOnKey_completes (policy : KeyIndexPolicy) (test : Bool → Bool) (x : Index) (s : State) :
    ∃ t, skipOnKey policy test x s = .next t := by
  cases h : s.keyState policy (s.reg x) with
  | some pressed => exact ⟨_, skipOnKey_of_some h⟩
  | none => exact ⟨_, skipOnKey_of_none h⟩

theorem execLdK_completes (x : Index) (s : State) : ∃ t, execLdK x s = .next t := by
  cases h : s.lowestKey with
  | none => exact ⟨_, execLdK_of_none h⟩
  | some k => exact ⟨_, execLdK_of_some h⟩

/-- No instruction blocks, at any setting of the parameters. -/
theorem execUnder_completes (cfg : Config) (i : Instr) (s : State) : ∃ t, execUnder cfg i s = .next t := by
  cases i with
  | ret => exact popIntoPc_completes cfg.stackUnderflow s
  | call nnn => exact pushAndJump_completes (addrOf nnn) s
  | skp x => exact skipOnKey_completes cfg.keyIndex id x s
  | sknp x => exact skipOnKey_completes cfg.keyIndex not x s
  | ldK x => exact execLdK_completes x s
  | _ => exact ⟨_, rfl⟩

/-! The step under a configuration, one equation for each case (60_exceptions.md R217). -/

section stepUnder

variable {cfg : Config} {s : State}

theorem stepUnder_of_fault (hf : s.fault ≠ none) : stepUnder cfg s = .next s := by
  obtain ⟨kind, hkind⟩ := Option.ne_none_iff_exists'.mp hf
  simp only [stepUnder, hkind]

theorem stepUnder_of_decode {i : Instr} (hf : s.fault = none)
    (hd : decodeUnder cfg.class0Match s.fetchWord = .ok i) : stepUnder cfg s = execUnder cfg i s.advance := by
  simp only [stepUnder, hf, hd]

theorem stepUnder_of_unknown {e : DecodeError} (hf : s.fault = none)
    (hd : decodeUnder cfg.class0Match s.fetchWord = .error e) : stepUnder cfg s = .next s.advance := by
  simp only [stepUnder, hf, hd, execUnknown]

end stepUnder

/-- The step always completes, at any setting of the parameters. -/
theorem stepUnder_completes (cfg : Config) (s : State) : ∃ t, stepUnder cfg s = .next t := by
  by_cases hf : s.fault = none
  · cases hd : decodeUnder cfg.class0Match s.fetchWord with
    | ok i => rw [stepUnder_of_decode hf hd]; exact execUnder_completes cfg i s.advance
    | error e => exact ⟨s.advance, stepUnder_of_unknown hf hd⟩
  · exact ⟨s, stepUnder_of_fault hf⟩

/-! The default parameters. -/

/-- The three instructions that look at a parameter are defined at its default; the others do not look at one. -/
theorem execUnder_default (i : Instr) (s : State) : execUnder Config.default i s = exec i s := by
  cases i <;> rfl

theorem stepUnder_default (s : State) : stepUnder Config.default s = step s := by
  obtain ⟨hf, hs⟩ | ⟨i, hf, hd, hs⟩ | ⟨e, hf, hd, hs⟩ := step_cases s
  · rw [hs, stepUnder_of_fault hf]
  · rw [hs, stepUnder_of_decode hf hd, execUnder_default]
  · rw [hs, stepUnder_of_unknown hf hd]

/-- Reset contents are not listed, so writing them to a memory that lists nothing leaves it so. -/
theorem Memory.write_nil_resetByte {a : Nat} (ha : a < Config.memSize) : Memory.write [] a (resetByte a) = [] := by
  rw [Memory.write, Nat.mod_eq_of_lt ha, if_pos rfl]; rfl

theorem Memory.writeBytes_nil_resetByte (a n : Nat) (hfit : a + n ≤ Config.memSize) :
    Memory.writeBytes [] a ((List.range' a n).map resetByte) = [] := by
  induction n generalizing a with
  | zero => rfl
  | succ n ih =>
    rw [List.range'_succ, List.map_cons, Memory.writeBytes, Memory.write_nil_resetByte (by omega)]
    exact ih (a + 1) (by omega)

/-- The default FONT is the reset content of the addresses it fills (10_state.md R33), so it lists no byte. -/
theorem State.resetUnder_default : State.resetUnder Config.default = State.reset := by
  have hfont : fontBytes Config.default.font = (List.range' 0 Config.fontSize).map resetByte :=
    congrArg (List.map resetByte) List.range_eq_range'
  rw [State.resetUnder, hfont, Memory.writeBytes_nil_resetByte 0 Config.fontSize (by decide)]
  rfl

theorem transactUnder_default (tr : Transaction) (s : State) : transactUnder Config.default tr s = transact tr s := by
  cases tr with
  | reset => rw [transactUnder, State.resetUnder_default]; rfl
  | step => exact stepUnder_default s
  | load | tick | setKey | snapshot => rfl

/-- The step always completes: it is the step at the default parameters. -/
theorem step_completes (s : State) : ∃ t, step s = .next t :=
  stepUnder_default s ▸ stepUnder_completes Config.default s

end Sys2Proof.Machine
end

section
/-! The obligations on the step and on the default parameters (00_scope.md section 4; 60_exceptions.md R217). -/

open Sys2Proof Sys2Proof.Machine

/-- Settles O60: instruction by instruction, then for the step by its cases and for reset by the font being what an unlisted
byte of memory reads as; a step completes because every instruction does. -/
theorem defaultParametersGiveTheMachine : Obligations.DefaultParametersGiveTheMachine :=
  ⟨execUnder_default, stepUnder_default, State.resetUnder_default, transactUnder_default, stepUnder_completes⟩

/-- Settles O14: the cases of the step at the default parameters, and that it completes. -/
theorem stepAlwaysCompletes : Obligations.StepAlwaysCompletes := fun s =>
  ⟨rfl, rfl, fun hf => (stepUnder_default s).symm.trans (stepUnder_of_fault hf), fun hf _ hd => step_of_decode hf hd,
    fun hf _ hd => (stepUnder_default s).symm.trans (stepUnder_of_unknown hf hd), step_completes s⟩

end

section
/-! The tick (60_exceptions.md R218): what it leaves of the state. -/

namespace Sys2Proof.Machine

/-- A tick leaves every part but the two timers. -/
theorem sameBut_tick (s : State) : sameBut [.dt, .st] s s.tick := by
  intro part hpart
  cases part with
  | dt | st => simp at hpart
  | _ => simp [Part.same]

end Sys2Proof.Machine
end

section
/-! The obligation on the tick (60_exceptions.md R218). -/

open Sys2Proof Sys2Proof.Machine

/-- Settles O51: the tick is one count-down of each timer, in whatever state. -/
theorem tickCountsBothTimersDown : Obligations.TickCountsBothTimersDown :=
  fun s => ⟨s.tick, rfl, toNat_countDown s.dt, toNat_countDown s.st, sameBut_tick s⟩

end

section
/-! Memory and the screen around reset (10_state.md R32, R33, R41; 20_memory.md R66; 42_display.md R140, R141): what the
bytes before the program are after reset and after a load, and what keeps the framebuffer. -/

namespace Sys2Proof.Machine

/-! The reset contents of memory, and their frame under a load. -/

theorem fontByte_glyph (font : Font) {d k : Nat} (hd : d < 16) (hk : k < 5) :
    fontByte font (5 * d + k) = (font[d])[k] := by
  have hdiv : (5 * d + k) / 5 = d := by omega
  have hmod : (5 * d + k) % 5 = k := by omega
  have hfont : 5 * d + k < Config.fontSize := by simp only [Config.fontSize]; omega
  simp only [fontByte, hfont, dite_true, hdiv, hmod]

theorem fontByte_of_ge (font : Font) {a : Nat} (ha : Config.fontSize ≤ a) : fontByte font a = 0 :=
  dif_neg ha.not_gt

/-- Memory after reset under a configuration is its font, then zero: the font bytes are written over a memory that lists
nothing, and what an unlisted byte beyond them reads as does not depend on FONT. -/
theorem read_resetUnder (cfg : Config) {a : Nat} (ha : a < Config.memSize) :
    (State.resetUnder cfg).mem.read a = fontByte cfg.font a := by
  have hlen : (fontBytes cfg.font).length = Config.fontSize := by simp [fontBytes]
  rw [State.resetUnder, Memory.read_writeBytes [] 0 _ (by rw [hlen]; decide) a ha]
  by_cases hfont : a < Config.fontSize
  · rw [dif_pos (by omega)]
    simp [fontBytes]
  · rw [dif_neg (by omega), Memory.read_nil, Nat.mod_eq_of_lt ha, resetByte,
      fontByte_of_ge _ (not_lt.mp hfont), fontByte_of_ge _ (not_lt.mp hfont)]

/-- A load reaches no byte before the program, whether the ROM fits or not. -/
theorem State.read_load_of_lt (s : State) (rom : List Byte) {a : Nat} (ha : a < Config.programStart) :
    (s.load rom).mem.read a = s.mem.read a := by
  unfold State.load
  split
  · next hrom =>
    have hlen : rom.length ≤ Config.maxRom := of_decide_eq_true hrom
    have hfit : Config.programStart + rom.length ≤ Config.memSize := Nat.add_le_add_left hlen Config.programStart
    have hmem : a < Config.memSize := ha.trans (by decide)
    rw [Memory.read_writeBytes _ _ _ hfit a hmem, dif_neg (by omega)]
  · rfl

/-! What keeps the framebuffer (10_state.md R34): each shared operation that can branch, then the instructions, the step
and the transactions. -/

theorem fb_of_pushAndJump {target : Word} {s t : State} (h : pushAndJump target s = .next t) : t.fb = s.fb := by
  obtain ⟨_, hpush⟩ | ⟨_, hfull⟩ := pushAndJump_cases target s
  · cases hpush.symm.trans h; rfl
  · cases hfull.symm.trans h; rfl

theorem fb_of_popIntoPc {policy : StackUnderflowPolicy} {s t : State} (h : popIntoPc policy s = .next t) :
    t.fb = s.fb := by
  obtain ⟨_, hpop⟩ | ⟨_, _, hclamp⟩ | ⟨_, _, hfault⟩ := popIntoPc_cases policy s
  · cases hpop.symm.trans h; rfl
  · cases hclamp.symm.trans h; rfl
  · cases hfault.symm.trans h; rfl

theorem fb_of_skipOnKey {policy : KeyIndexPolicy} {test : Bool → Bool} {x : Index} {s t : State}
    (h : skipOnKey policy test x s = .next t) : t.fb = s.fb := by
  cases hkey : s.keyState policy (s.reg x) with
  | some pressed => cases (skipOnKey_of_some hkey).symm.trans h; exact State.fb_skipIf s _
  | none => cases (skipOnKey_of_none hkey).symm.trans h; rfl

theorem fb_of_execLdK {x : Index} {s t : State} (h : execLdK x s = .next t) : t.fb = s.fb := by
  cases hkey : s.lowestKey with
  | none => cases (execLdK_of_none hkey).symm.trans h; rfl
  | some k => cases (execLdK_of_some hkey).symm.trans h; rfl

/-- Only CLS and DRW write the framebuffer, at any setting of the parameters. -/
theorem fb_of_execUnder {cfg : Config} {i : Instr} {s t : State} (hcls : i ≠ .cls) (hdrw : ∀ x y n, i ≠ .drw x y n)
    (h : execUnder cfg i s = .next t) : t.fb = s.fb := by
  cases i with
  | cls => exact absurd rfl hcls
  | drw x y n => exact absurd rfl (hdrw x y n)
  | ret => exact fb_of_popIntoPc h
  | call nnn => exact fb_of_pushAndJump h
  | skp x => exact fb_of_skipOnKey (test := id) h
  | sknp x => exact fb_of_skipOnKey (test := not) h
  | ldK x => exact fb_of_execLdK h
  | seImm | sneImm | seReg | sneReg => cases h; exact State.fb_skipIf s _
  | ldStore x =>
    cases h
    obtain ⟨m, hm⟩ := s.storeRegs_eq (x.val + 1)
    rw [hm]
  | ldLoad x =>
    cases h
    obtain ⟨u, hu⟩ := s.loadRegs_eq (x.val + 1)
    rw [hu]
  | _ => cases h; rfl

/-- A step keeps the framebuffer unless the word it fetches is CLS or DRW. -/
theorem fb_of_stepUnder {cfg : Config} {s t : State} (hcls : decodeUnder cfg.class0Match s.fetchWord ≠ .ok .cls)
    (hdrw : ∀ x y n, decodeUnder cfg.class0Match s.fetchWord ≠ .ok (.drw x y n))
    (h : stepUnder cfg s = .next t) : t.fb = s.fb := by
  by_cases hf : s.fault = none
  · cases hd : decodeUnder cfg.class0Match s.fetchWord with
    | ok i =>
      have hexec : execUnder cfg i s.advance = .next t := (stepUnder_of_decode hf hd).symm.trans h
      exact (fb_of_execUnder (fun hi => hcls (hi ▸ hd)) (fun x y n hi => hdrw x y n (hi ▸ hd)) hexec).trans s.fb_advance
    | error e => cases (stepUnder_of_unknown hf hd).symm.trans h; rfl
  · cases (stepUnder_of_fault hf).symm.trans h; rfl

end Sys2Proof.Machine
end

section
/-! The obligation on what reset, a load and the other transactions leave of memory and the screen (70_reset_and_hazards.md
R231). -/

open Sys2Proof Sys2Proof.Machine

/-- Settles O6: memory after reset is the font and then zero, a load adds nothing before the program, and the framebuffer's
frame over the transactions other than reset. -/
theorem fontAndClearScreenAfterResetAndLoad : Obligations.FontAndClearScreenAfterResetAndLoad := by
  refine ⟨fun cfg s => ⟨_, rfl, Framebuffer.pixel_clear, fun u hu => ?memory⟩, fun cfg tr s t hreset hdraw h => ?screen⟩
  case memory =>
    have hread {a : Nat} (ha : a < 0x200) : u.mem.read a = fontByte cfg.font a := by
      have hafter : (State.resetUnder cfg).mem.read a = fontByte cfg.font a := read_resetUnder cfg (ha.trans (by decide))
      obtain rfl | ⟨rom, hload⟩ := hu
      · exact hafter
      · cases hload
        exact (State.read_load_of_lt _ rom ha).trans hafter
    exact ⟨fun d k hd hk => (hread (by omega)).trans (fontByte_glyph cfg.font hd hk),
      fun a hfont hlt => (hread hlt).trans (fontByte_of_ge cfg.font hfont)⟩
  case screen =>
    cases tr with
    | reset => exact absurd rfl hreset
    | step =>
      obtain ⟨hcls, hdrw⟩ := hdraw rfl
      exact fb_of_stepUnder hcls hdrw h
    | load rom => cases h; exact s.fb_load rom
    | setKey k p => cases h; exact s.fb_setKey k p
    | tick | snapshot => cases h; rfl

end

section
/-! Encoding (30_encoding.md R70 to R84): decoding an encoded instruction, encoding a decoded word, and the words that decode to
nothing. -/

namespace Sys2Proof

/-! The formats put the fields read off a word together again (30_encoding.md R71). -/

theorem wordA_of_fields {w : Word} {c : BitVec 4} (hc : fieldC w = c.toNat) : wordA c (fieldNNN w) = w := by
  have hclass : w.extractLsb' 12 4 = c := BitVec.eq_of_toNat_eq hc
  exact hclass ▸ (word_eq_wordA w).symm

theorem wordXK_of_fields {w : Word} {c : BitVec 4} {kk : Byte} (hc : fieldC w = c.toNat) (hkk : fieldKK w = kk) :
    wordXK c (fieldX w) kk = w := by
  have hclass : w.extractLsb' 12 4 = c := BitVec.eq_of_toNat_eq hc
  exact hclass ▸ hkk ▸ (word_eq_wordXK w).symm

theorem wordXYN_of_fields {w : Word} {c n : BitVec 4} (hc : fieldC w = c.toNat) (hn : (fieldN w).val = n.toNat) :
    wordXYN c (fieldX w) (fieldY w) n = w := by
  have hclass : w.extractLsb' 12 4 = c := BitVec.eq_of_toNat_eq hc
  have hlow : w.extractLsb' 0 4 = n := BitVec.eq_of_toNat_eq hn
  exact hclass ▸ hlow ▸ (word_eq_wordXYN w).symm

/-! Decoding what was encoded. -/

/-- A SYS whose operand is checked is no CLS and no RET (30_encoding.md R76). -/
theorem decodeClass0_wordA {m : Class0Match} {nnn : Addr12} (h : sysOperandOk m nnn = true) :
    decodeClass0 m (wordA 0 nnn) = .sys nnn := by
  cases m with
  | lowByte =>
    obtain ⟨hcls, hret⟩ : nnn.setWidth 8 ≠ 0xE0#8 ∧ nnn.setWidth 8 ≠ 0xEE#8 := by
      simpa [sysOperandOk] using h
    simp only [decodeClass0, fieldKK_wordA, if_neg hcls, if_neg hret, fieldNNN_wordA]
  | fullWord =>
    obtain ⟨hcls, hret⟩ : nnn ≠ 0x0E0#12 ∧ nnn ≠ 0x0EE#12 := by simpa [sysOperandOk] using h
    have hne {a : Addr12} {w : Word} (ha : nnn ≠ a) (hw : fieldNNN w = a) : wordA 0 nnn ≠ w := fun heq =>
      ha (by rw [← hw, ← heq, fieldNNN_wordA])
    simp only [decodeClass0, fieldNNN_wordA]
    rw [if_neg (hne hcls (by decide)), if_neg (hne hret (by decide))]

theorem decodeUnder_encode {m : Class0Match} {i : Instr} (h : i.wellFormedUnder m = true) :
    decodeUnder m (encode i) = .ok i := by
  cases i with
  | sys nnn => simpa [decodeUnder, encode] using decodeClass0_wordA h
  | cls | ret => cases m <;> rfl
  | jp | call | ldI | jpV0 => simp [decodeUnder, encode]
  | seImm | sneImm | ldImm | addImm | rnd => simp [decodeUnder, encode]
  | seReg | sneReg | drw => simp [decodeUnder, encode]
  | ldReg | or | and | xor | addReg | sub | shr | subn | shl => simp [decodeUnder, encode, decodeClass8]
  | skp | sknp => simp [decodeUnder, encode, decodeClassE]
  | ldVxDt | ldK | ldDtVx | ldStVx | addI | ldF | ldB | ldStore | ldLoad => simp [decodeUnder, encode, decodeClassF]

theorem decodeBytes_encodeBytes {i : Instr} (h : i.wellFormed = true) (rest : List Byte) :
    decodeBytes (encodeBytes i ++ rest) = .ok (i, rest) := by
  have hd : decode (encode i) = .ok i := decodeUnder_encode h
  refine (decodeBytes_of_word (encode i) rest).trans ?_
  rw [hd]

/-! Encoding what was decoded. -/

/-- The instruction `i` is a reading of the word: it is well-formed, and its encoding is the word on the bits examined. -/
def Reads (m : Class0Match) (w : Word) (i : Instr) : Prop :=
  i.wellFormedUnder m = true ∧ encode i = w &&& examinedBits m i

/-- Where every bit is examined, the encoding is the word. -/
theorem reads_of_encode {m : Class0Match} {w : Word} {i : Instr} (hwf : i.wellFormedUnder m = true)
    (hbits : examinedBits m i = BitVec.allOnes 16) (henc : encode i = w) : Reads m w i :=
  ⟨hwf, by rw [hbits, BitVec.and_allOnes, henc]⟩

/-- Classes 5 and 9 leave the low nibble unexamined (30_encoding.md R80). -/
theorem wordXYN_and_FFF0 (c : BitVec 4) (x y : Index) (n : BitVec 4) :
    wordXYN c x y n &&& 0xFFF0#16 = wordXYN c x y 0 := by
  apply BitVec.eq_of_getLsbD_eq
  intro i hi
  simp only [BitVec.getLsbD_and, wordXYN, BitVec.getLsbD_append]
  interval_cases i <;> simp

theorem wordXYN_of_class {w : Word} {c : BitVec 4} (hc : fieldC w = c.toNat) :
    wordXYN c (fieldX w) (fieldY w) 0 = w &&& 0xFFF0#16 := by
  rw [← wordXYN_and_FFF0 c (fieldX w) (fieldY w) (w.extractLsb' 0 4), wordXYN_of_fields hc rfl]

/-- CLS and RET leave bits 11 to 8 unexamined under `lowByte` (30_encoding.md R76). -/
theorem wordXK_of_fields_sub {w : Word} {c : BitVec 4} {kk : Byte} (hc : fieldC w = c.toNat) (hkk : fieldKK w = kk) :
    wordXK c 0 kk = w &&& 0xF0FF#16 := by
  rw [← Laws.wordXK_row_sub c (fieldX w) kk, wordXK_of_fields hc hkk]

/-! What each class decodes reads the word. -/

theorem reads_of_decodeClass0 {m : Class0Match} {w : Word} (hc : fieldC w = 0) : Reads m w (decodeClass0 m w) := by
  have hword : wordA 0 (fieldNNN w) = w := wordA_of_fields hc
  have hkk : fieldKK w = (fieldNNN w).setWidth 8 := by
    calc fieldKK w = fieldKK (wordA 0 (fieldNNN w)) := by rw [hword]
      _ = (fieldNNN w).setWidth 8 := fieldKK_wordA 0 _
  cases m with
  | lowByte =>
    simp only [decodeClass0]
    split
    · next h => exact ⟨rfl, .trans (by decide) (wordXK_of_fields_sub (c := 0) hc h)⟩
    · split
      · next h => exact ⟨rfl, .trans (by decide) (wordXK_of_fields_sub (c := 0) hc h)⟩
      · next hcls hret =>
        have hok : sysOperandOk .lowByte (fieldNNN w) = true := by simp [sysOperandOk, ← hkk, hcls, hret]
        exact reads_of_encode hok rfl hword
  | fullWord =>
    simp only [decodeClass0]
    split
    · next h => exact reads_of_encode rfl rfl h.symm
    · split
      · next h => exact reads_of_encode rfl rfl h.symm
      · next hcls hret =>
        have hne {a : Addr12} (ha : w ≠ wordA 0 a) : fieldNNN w ≠ a := fun h => ha (h ▸ hword.symm)
        have hok : sysOperandOk .fullWord (fieldNNN w) = true := by
          simp [sysOperandOk, hne (a := 0x0E0#12) hcls, hne (a := 0x0EE#12) hret]
        exact reads_of_encode hok rfl hword

theorem reads_of_decodeClass8 {m : Class0Match} {w : Word} {i : Instr} (hc : fieldC w = 8)
    (h : decodeClass8 w = .ok i) : Reads m w i := by
  unfold decodeClass8 at h
  split at h
  case h_10 => cases h
  all_goals
    next hn =>
      cases h
      exact reads_of_encode rfl rfl (wordXYN_of_fields hc hn)

theorem reads_of_decodeClassE {m : Class0Match} {w : Word} {i : Instr} (hc : fieldC w = 0xE)
    (h : decodeClassE w = .ok i) : Reads m w i := by
  unfold decodeClassE at h
  split at h
  case h_3 => cases h
  all_goals
    next hkk =>
      cases h
      exact reads_of_encode rfl rfl (wordXK_of_fields hc (BitVec.eq_of_toNat_eq hkk))

theorem reads_of_decodeClassF {m : Class0Match} {w : Word} {i : Instr} (hc : fieldC w = 0xF)
    (h : decodeClassF w = .ok i) : Reads m w i := by
  unfold decodeClassF at h
  split at h
  case h_10 => cases h
  all_goals
    next hkk =>
      cases h
      exact reads_of_encode rfl rfl (wordXK_of_fields hc (BitVec.eq_of_toNat_eq hkk))

/-- By the class, whose value each case names. -/
theorem reads_of_decodeUnder {m : Class0Match} {w : Word} {i : Instr} (h : decodeUnder m w = .ok i) : Reads m w i := by
  have hlt := fieldC_lt w
  unfold decodeUnder at h
  split at h
  -- the four classes with sub-codes: 0, 8, E and F
  case h_1 hc => cases h; exact reads_of_decodeClass0 hc
  case h_9 hc => exact reads_of_decodeClass8 hc h
  case h_15 hc => exact reads_of_decodeClassE hc h
  case h_16 =>
    have hc : fieldC w = 0xF := by simp only [imp_false] at *; omega
    exact reads_of_decodeClassF hc h
  -- classes 5 and 9, whose low nibble is not examined
  case h_6 hc | h_10 hc => cases h; exact ⟨rfl, wordXYN_of_class hc⟩
  -- classes 1, 2, A and B, of format A
  case h_2 hc | h_3 hc | h_11 hc | h_12 hc => cases h; exact reads_of_encode rfl rfl (wordA_of_fields hc)
  -- classes 3, 4, 6, 7 and C, of format XK
  case h_4 hc | h_5 hc | h_7 hc | h_8 hc | h_13 hc =>
    cases h; exact reads_of_encode rfl rfl (wordXK_of_fields hc rfl)
  -- class D, of format XYN
  case h_14 hc => cases h; exact reads_of_encode rfl rfl (wordXYN_of_fields hc rfl)

/-! The rows of the opcode map (30_encoding.md R83). -/

/-- The encoding of every instruction has the fixed bits of its row. -/
theorem Laws.RowMatch.all (i : Instr) : Statement i := by
  cases i
  exacts [sys _, cls, ret, jp _, call _, seImm _ _, sneImm _ _, seReg _ _, ldImm _ _, addImm _ _, ldReg _ _, or _ _, and _ _,
    xor _ _, addReg _ _, sub _ _, shr _ _, subn _ _, shl _ _, sneReg _ _, ldI _, jpV0 _, rnd _ _, drw _ _ _, skp _, sknp _,
    ldVxDt _, ldK _, ldDtVx _, ldStVx _, addI _, ldF _, ldB _, ldStore _, ldLoad _]

theorem encode_and_mask (i : Instr) : encode i &&& (opcodeRow i).mask = (opcodeRow i).pattern := Laws.RowMatch.all i

/-- The default CLASS0_MATCH examines at least the bits of the row. -/
theorem examinedBits_and_mask (i : Instr) :
    examinedBits Config.default.class0Match i &&& (opcodeRow i).mask = (opcodeRow i).mask := by
  cases i with
  | seReg | sneReg => exact (by decide : 0xFFF0#16 &&& 0xF000#16 = 0xF000#16)
  | cls | ret => decide
  | _ => exact BitVec.allOnes_and

theorem row_of_decode {w : Word} {i : Instr} (h : decode w = .ok i) :
    w &&& (opcodeRow i).mask = (opcodeRow i).pattern := by
  obtain ⟨-, henc⟩ := reads_of_decodeUnder h
  rw [← encode_and_mask i, henc, BitVec.and_assoc, examinedBits_and_mask]

/-- Words that agree under a mask agree on a field that the mask covers. -/
theorem extract_eq_of_and_eq {v w mask : Word} (h : w &&& mask = v &&& mask) {s k : Nat}
    (hcovered : mask.extractLsb' s k = BitVec.allOnes k) : w.extractLsb' s k = v.extractLsb' s k := by
  have hfield : (w &&& mask).extractLsb' s k = (v &&& mask).extractLsb' s k := by rw [h]
  simpa only [BitVec.extractLsb'_and, hcovered, BitVec.and_allOnes] using hfield

/-- Every row fixes the class. -/
theorem fieldC_eq_of_and_eq {v w : Word} {i : Instr} (h : w &&& (opcodeRow i).mask = v &&& (opcodeRow i).mask) :
    fieldC w = fieldC v := by
  have hmask : (opcodeRow i).mask = 0xF000#16 ∨ (opcodeRow i).mask = 0xF00F#16 ∨ (opcodeRow i).mask = 0xF0FF#16 := by
    cases i <;> simp [opcodeRow]
  have hcovered : (opcodeRow i).mask.extractLsb' 12 4 = BitVec.allOnes 4 := by
    obtain hm | hm | hm := hmask <;> rw [hm] <;> decide
  exact congrArg BitVec.toNat (extract_eq_of_and_eq h hcovered)

theorem fieldKK_eq_of_and_eq {v w : Word} (h : w &&& 0xF0FF#16 = v &&& 0xF0FF#16) : fieldKK w = fieldKK v :=
  extract_eq_of_and_eq h (by decide)

theorem fieldN_eq_of_and_eq {v w : Word} (h : w &&& 0xF00F#16 = v &&& 0xF00F#16) : fieldN w = fieldN v :=
  congrArg BitVec.toFin (extract_eq_of_and_eq (s := 0) (k := 4) h (by decide))

/-- A word that matches a row has the fields that the row fixes, those of the encoding, and they choose the instruction. -/
theorem decode_of_row {w : Word} {j : Instr} (h : w &&& (opcodeRow j).mask = (opcodeRow j).pattern) :
    ∃ i, decode w = .ok i ∧ (opcodeRow i = opcodeRow j ∨ (opcodeRow j).mnemonic = "SYS") := by
  have hsame : w &&& (opcodeRow j).mask = encode j &&& (opcodeRow j).mask := h.trans (encode_and_mask j).symm
  unfold decode decodeUnder
  rw [fieldC_eq_of_and_eq hsame]
  cases j with
  | sys nnn => exact ⟨_, by rw [encode, fieldC_wordA]; rfl, .inr rfl⟩
  | cls | ret =>
    have hkk := fieldKK_eq_of_and_eq hsame
    exact ⟨_, by simp only [decodeClass0, hkk]; rfl, .inl rfl⟩
  | ldReg | or | and | xor | addReg | sub | shr | subn | shl =>
    simp [encode, opcodeRow, decodeClass8, fieldN_eq_of_and_eq hsame]
  | skp | sknp => simp [encode, opcodeRow, decodeClassE, fieldKK_eq_of_and_eq hsame]
  | ldVxDt | ldK | ldDtVx | ldStVx | addI | ldF | ldB | ldStore | ldLoad =>
    simp [encode, opcodeRow, decodeClassF, fieldKK_eq_of_and_eq hsame]
  | _ => simp [encode, opcodeRow]

/-! The words that decode to nothing (30_encoding.md R81). -/

theorem decodeClass8_error_iff (w : Word) : (∃ e, decodeClass8 w = .error e) ↔
    w.extractLsb' 0 4 ∈ [0x8#4, 0x9#4, 0xA#4, 0xB#4, 0xC#4, 0xD#4, 0xF#4] := by
  have hn : (fieldN w).val = (w.extractLsb' 0 4).toNat := rfl
  unfold decodeClass8
  rw [hn]
  generalize w.extractLsb' 0 4 = n
  obtain ⟨⟨n, hlt⟩⟩ := n
  interval_cases n <;> simp

theorem decodeClassE_error_iff (w : Word) :
    (∃ e, decodeClassE w = .error e) ↔ fieldKK w ∉ [0x9E#8, 0xA1#8] := by
  simp only [decodeClassE, List.mem_cons, List.not_mem_nil, or_false, ← BitVec.toNat_inj]
  split
  case h_3 => simp_all
  all_goals next hkk => simp [hkk]

theorem decodeClassF_error_iff (w : Word) : (∃ e, decodeClassF w = .error e) ↔
    fieldKK w ∉ [0x07#8, 0x0A#8, 0x15#8, 0x18#8, 0x1E#8, 0x29#8, 0x33#8, 0x55#8, 0x65#8] := by
  simp only [decodeClassF, List.mem_cons, List.not_mem_nil, or_false, ← BitVec.toNat_inj]
  split
  case h_10 => simp_all
  all_goals next hkk => simp [hkk]

/-- Only three classes have unknown words. -/
theorem decodeUnder_error_iff (m : Class0Match) (w : Word) : (∃ e, decodeUnder m w = .error e) ↔
    (fieldC w = 0x8 ∧ ∃ e, decodeClass8 w = .error e) ∨ (fieldC w = 0xE ∧ ∃ e, decodeClassE w = .error e) ∨
      (fieldC w = 0xF ∧ ∃ e, decodeClassF w = .error e) := by
  have hlt := fieldC_lt w
  unfold decodeUnder
  generalize fieldC w = c at hlt
  interval_cases c <;> simp

end Sys2Proof
end

section
/-! The obligations on the encoding (30_encoding.md sections 1 to 5). -/

open Sys2Proof Sys2Proof.Machine

/-- Settles O7: instruction by instruction, from the fields of the formats; the check on SYS keeps it off CLS and RET. -/
theorem decodeOfEncodeIsTheInstruction : Obligations.DecodeOfEncodeIsTheInstruction :=
  ⟨fun _ _ h => decodeUnder_encode h, fun _ rest h => decodeBytes_encodeBytes h rest⟩

/-- Settles O8: class by class, a word is put together from the fields that its instruction carries. -/
theorem encodeOfDecodeIsTheWordOnExaminedBits : Obligations.EncodeOfDecodeIsTheWordOnExaminedBits :=
  fun _ _ _ h => reads_of_decodeUnder h

/-- Settles O9: the classes with unknown words, and the sub-codes unlisted in each. -/
theorem unknownWordsAreExactlyTheUnlistedSubcodes : Obligations.UnknownWordsAreExactlyTheUnlistedSubcodes := by
  intro m w
  have hclass (c : BitVec 4) : w.extractLsb' 12 4 = c ↔ fieldC w = c.toNat := BitVec.toNat_inj.symm
  rw [decodeUnder_error_iff, decodeClass8_error_iff, decodeClassE_error_iff, decodeClassF_error_iff, hclass, hclass, hclass]
  exact Iff.rfl

/-- Settles O10: the row of a decoded word through its encoding, and the fields of a row's word through decoding. -/
theorem decodeSelectsTheOneMatchingRow : Obligations.DecodeSelectsTheOneMatchingRow :=
  ⟨fun _ _ h => row_of_decode h, fun _ _ h => decode_of_row h⟩

/-- Settles O11: each word is a literal, and decoding computes. -/
theorem sampleWordsOfEachFamilyDecode : Obligations.SampleWordsOfEachFamilyDecode := by
  unfold Obligations.SampleWordsOfEachFamilyDecode
  decide

end

section
/-! The frames (10_state.md sections 2 to 12; 60_exceptions.md R202, R203): what each instruction may write, and when
it raises a fault. -/

namespace Sys2Proof.Machine

/-! Agreement of states, part by part. -/

theorem Part.same_refl (p : Part) (s : State) : p.same s s := by
  cases p with
  | v | stack | mem | key => exact fun _ => rfl
  | fb => exact fun _ _ => rfl
  | _ => exact rfl

theorem Part.same_trans {p : Part} {s t u : State} (hst : p.same s t) (htu : p.same t u) : p.same s u := by
  cases p with
  | v | stack | mem | key => exact fun k => (htu k).trans (hst k)
  | fb => exact fun row col => (htu row col).trans (hst row col)
  | _ => exact Eq.trans htu hst

theorem sameBut_refl (parts : List Part) (s : State) : sameBut parts s s := fun p _ => p.same_refl s

theorem sameBut_trans {parts : List Part} {s t u : State} (hst : sameBut parts s t) (htu : sameBut parts t u) :
    sameBut parts s u := fun p hp => Part.same_trans (hst p hp) (htu p hp)

/-- More parts may differ than do. -/
theorem sameBut_mono {parts more : List Part} {s t : State} (h : sameBut parts s t) (hsub : parts ⊆ more) :
    sameBut more s t := fun p hp => h p fun hmem => hp (hsub hmem)

/-- Where V is kept, so is every register. -/
theorem regsSameBut_of_sameBut {parts : List Part} {s t : State} (h : sameBut parts s t) (hv : Part.v ∉ parts)
    (rs : List Index) : regsSameBut rs s t := fun r _ => h .v hv r

/-! What each kind of update may write. -/

theorem sameBut_setI (s : State) (a : Word) : sameBut [.i] s (s.setI a) := by
  intro part hpart
  cases part with
  | i => exact absurd (List.mem_singleton_self _) hpart
  | _ => simp [Part.same]

theorem sameBut_fault (s : State) (f : Option Fault) : sameBut [.fault] s { s with fault := f } := by
  intro part hpart
  cases part with
  | fault => exact absurd (List.mem_singleton_self _) hpart
  | _ => simp [Part.same, State.reg, State.stackEntry, State.memRead, State.keyPressed]

theorem sameBut_draws (s : State) (n : Nat) : sameBut [.draws] s { s with draws := n } := by
  intro part hpart
  cases part with
  | draws => exact absurd (List.mem_singleton_self _) hpart
  | _ => simp [Part.same, State.reg, State.stackEntry, State.memRead, State.keyPressed]

/-- What a push writes below the capacity (40_control_flow.md R103). -/
theorem sameBut_pushed (s : State) (stack : Vector Word 16) (sp : Fin 17) (pc : Word) :
    sameBut [.pc, .stack, .sp] s { s with stack := stack, sp := sp, pc := pc } := by
  intro part hpart
  cases part with
  | pc | stack | sp => simp at hpart
  | _ => simp [Part.same, State.reg, State.memRead, State.keyPressed]

/-- What a pop writes (40_control_flow.md R101). -/
theorem sameBut_popped (s : State) (sp : Fin 17) (pc : Word) : sameBut [.pc, .sp] s { s with sp := sp, pc := pc } := by
  intro part hpart
  cases part with
  | pc | sp => simp at hpart
  | _ => simp [Part.same, State.reg, State.stackEntry, State.memRead, State.keyPressed]

theorem sameBut_of_pushAndJump {target : Word} {s t : State} (h : pushAndJump target s = .next t) :
    sameBut [.pc, .stack, .sp, .fault] s t := by
  obtain ⟨_, hpush⟩ | ⟨_, hfull⟩ := pushAndJump_cases target s
  · cases hpush.symm.trans h
    exact sameBut_mono (sameBut_pushed s _ _ _) (by decide)
  · cases hfull.symm.trans h
    exact sameBut_mono (sameBut_fault s _) (by decide)

/-- At the default policy a pop raises no fault. -/
theorem sameBut_of_popIntoPc_clamp {s t : State} (h : popIntoPc .clamp s = .next t) : sameBut [.pc, .sp] s t := by
  obtain ⟨_, hpop⟩ | ⟨_, _, hclamp⟩ | ⟨_, hpolicy, _⟩ := popIntoPc_cases .clamp s
  · cases hpop.symm.trans h
    exact sameBut_popped s _ _
  · cases hclamp.symm.trans h
    exact sameBut_mono (sameBut_setPc s _) (by decide)
  · cases hpolicy

theorem sameBut_of_skipOnKey {policy : KeyIndexPolicy} {test : Bool → Bool} {x : Index} {s t : State}
    (h : skipOnKey policy test x s = .next t) : sameBut [.pc, .fault] s t := by
  cases hkey : s.keyState policy (s.reg x) with
  | some pressed =>
    cases (skipOnKey_of_some hkey).symm.trans h
    exact sameBut_mono (sameBut_skipIf s _) (by decide)
  | none =>
    cases (skipOnKey_of_none hkey).symm.trans h
    exact sameBut_mono (sameBut_fault s _) (by decide)

theorem frame_of_execLdK {x : Index} {s t : State} (h : execLdK x s = .next t) :
    sameBut [.v, .pc] s t ∧ regsSameBut [x] s t := by
  cases hkey : s.lowestKey with
  | none =>
    cases (execLdK_of_none hkey).symm.trans h
    exact ⟨sameBut_mono (sameBut_setPc s _) (by decide), regsSameBut_of_sameBut (sameBut_setPc s _) (by decide) _⟩
  | some k =>
    cases (execLdK_of_some hkey).symm.trans h
    obtain ⟨hregs, hparts⟩ := frame_setReg s x (BitVec.ofNat 8 k.val)
    exact ⟨sameBut_mono hparts (by decide), hregs⟩

/-- A result and its flag reach V[x] and VF (41_alu.md R133). -/
theorem frame_setResultThenFlag (s : State) (x : Index) (b : Byte) (c : Bool) :
    sameBut [.v] s (s.setResultThenFlag x b c) ∧ regsSameBut [x, vf] s (s.setResultThenFlag x b c) := by
  obtain ⟨hregs, hparts⟩ := frame_setReg s x b
  obtain ⟨hregs', hparts'⟩ := frame_setReg (s.setReg x b) vf (flagByte c)
  refine ⟨sameBut_trans hparts hparts', fun r hr => ?_⟩
  obtain ⟨hx, hvf⟩ : r ∉ [x] ∧ r ∉ [vf] := by simpa using hr
  exact (hregs' r hvf).trans (hregs r hx)

theorem frame_loadRegs (s : State) (x : Index) : sameBut [.v] s (s.loadRegs (x.val + 1)) ∧
    regsSameBut ((List.finRange 16).filter (· ≤ x)) s (s.loadRegs (x.val + 1)) := by
  constructor
  · obtain ⟨u, hu⟩ := s.loadRegs_eq (x.val + 1)
    rw [hu]
    intro part hpart
    cases part with
    | v => exact absurd (List.mem_singleton_self _) hpart
    | _ => simp [Part.same, State.stackEntry, State.memRead, State.keyPressed]
  · intro r hr
    have hgt : ¬r.val < x.val + 1 := fun hlt =>
      hr (List.mem_filter.mpr ⟨List.mem_finRange r, decide_eq_true (Fin.le_def.mpr (Nat.le_of_lt_succ hlt))⟩)
    rw [State.reg_loadRegs s _ (by omega), if_neg hgt]

/-- A drawing reaches the screen and VF (42_display.md R141). -/
theorem frame_drawn (s : State) (fb : Framebuffer) (b : Byte) :
    sameBut [.v, .fb] s (State.setReg { s with fb := fb } vf b) ∧
      regsSameBut [vf] s (State.setReg { s with fb := fb } vf b) := by
  obtain ⟨hregs, hparts⟩ := frame_setReg { s with fb := fb } vf b
  exact ⟨sameBut_trans (sameBut_mono (sameBut_fb s fb) (by decide)) (sameBut_mono hparts (by decide)), hregs⟩

/-- A random byte reaches V[x] and is counted (41_alu.md R131). -/
theorem frame_of_rndWith {r : Byte} {x : Index} {kk : Byte} {s t : State} (h : rndWith r x kk s = .next t) :
    sameBut [.v, .draws] s t ∧ regsSameBut [x] s t := by
  cases h
  obtain ⟨hregs, hparts⟩ := frame_setReg s x (r &&& kk)
  exact ⟨sameBut_trans (sameBut_mono hparts (by decide)) (sameBut_mono (sameBut_draws _ _) (by decide)), hregs⟩

/-! The frame of every instruction (10_state.md sections 2 to 12): the parts and the registers it may write. -/

theorem sameBut_of_exec {i : Instr} {s t : State} (h : exec i s = .next t) : sameBut (partsWritten i) s t := by
  cases i with
  | sys => cases h; exact sameBut_refl [] s
  | cls => cases h; exact sameBut_fb s _
  | ret => exact sameBut_of_popIntoPc_clamp h
  | call => exact sameBut_of_pushAndJump h
  | jp | jpV0 => cases h; exact sameBut_setPc s _
  | seImm | sneImm | seReg | sneReg => cases h; exact sameBut_skipIf s _
  | skp => exact sameBut_of_skipOnKey (test := id) h
  | sknp => exact sameBut_of_skipOnKey (test := not) h
  | ldK => exact (frame_of_execLdK h).1
  | ldImm | addImm | ldReg | or | and | xor | ldVxDt => cases h; exact (frame_setReg s _ _).2
  | addReg | sub | shr | subn | shl => cases h; exact (frame_setResultThenFlag s _ _ _).1
  | rnd => exact (frame_of_rndWith h).1
  | drw => cases h; exact (frame_drawn s _ _).1
  | ldI | addI | ldF => cases h; exact sameBut_setI s _
  | ldDtVx => cases h; exact sameBut_dt s _
  | ldStVx => cases h; exact sameBut_st s _
  | ldB x =>
    obtain ⟨m, hm⟩ := exec_ldB_eq_withMem x s
    cases hm.symm.trans h
    exact sameBut_withMem m s
  | ldStore x =>
    obtain ⟨m, hm⟩ := exec_ldStore_eq_withMem x s
    cases hm.symm.trans h
    exact sameBut_withMem m s
  | ldLoad x => cases h; exact (frame_loadRegs s x).1

theorem regsSameBut_of_exec {i : Instr} {s t : State} (h : exec i s = .next t) : regsSameBut (regsWritten i) s t := by
  cases i with
  | ldImm | addImm | ldReg | or | and | xor | ldVxDt => cases h; exact (frame_setReg s _ _).1
  | addReg | sub | shr | subn | shl => cases h; exact (frame_setResultThenFlag s _ _ _).2
  | rnd => exact (frame_of_rndWith h).2
  | drw => cases h; exact (frame_drawn s _ _).2
  | ldK => exact (frame_of_execLdK h).2
  | ldLoad x => cases h; exact (frame_loadRegs s x).2
  | _ => exact regsSameBut_of_sameBut (sameBut_of_exec h) (by simp [partsWritten]) _

/-! Faults (60_exceptions.md R202, R203). -/

/-- A CALL with a full stack raises StackOverflow, and below the capacity nothing is raised. -/
theorem fault_of_pushAndJump {target : Word} {s t : State} (h : pushAndJump target s = .next t) :
    t.fault = s.fault ∨ (s.sp.val = 16 ∧ t.fault = some .stackOverflow ∧ sameBut [.fault] s t) := by
  obtain ⟨_, hpush⟩ | ⟨hsp, hfull⟩ := pushAndJump_cases target s
  · cases hpush.symm.trans h
    exact .inl rfl
  · cases hfull.symm.trans h
    exact .inr ⟨hsp, rfl, sameBut_fault s _⟩

/-- At the default policy a key test raises KeyIndexOutOfRange on a register above 15 only. -/
theorem fault_of_skipOnKey {test : Bool → Bool} {x : Index} {s t : State} (h : skipOnKey .fault test x s = .next t) :
    t.fault = s.fault ∨ (16 ≤ (s.reg x).toNat ∧ t.fault = some .keyIndexOutOfRange ∧ sameBut [.fault] s t) := by
  by_cases hlt : (s.reg x).toNat < 16
  · cases (skipOnKey_of_some (s.keyState_of_lt .fault hlt)).symm.trans h
    exact .inl (s.fault_skipIf _)
  · cases (skipOnKey_of_none (s.keyState_of_ge .fault hlt)).symm.trans h
    exact .inr ⟨not_lt.mp hlt, rfl, sameBut_fault s _⟩

theorem fault_of_exec {i : Instr} {s t : State} (h : exec i s = .next t) : t.fault = s.fault ∨
    ((∃ nnn, i = .call nnn) ∧ s.sp.val = 16 ∧ t.fault = some .stackOverflow ∧ sameBut [.fault] s t) ∨
    ((∃ x, (i = .skp x ∨ i = .sknp x) ∧ 16 ≤ (s.reg x).toNat) ∧ t.fault = some .keyIndexOutOfRange ∧
      sameBut [.fault] s t) := by
  cases i with
  | call nnn =>
    obtain hkept | hraised := fault_of_pushAndJump h
    · exact .inl hkept
    · exact .inr (.inl ⟨⟨nnn, rfl⟩, hraised⟩)
  | skp x =>
    obtain hkept | ⟨hindex, hraised⟩ := fault_of_skipOnKey (test := id) h
    · exact .inl hkept
    · exact .inr (.inr ⟨⟨x, .inl rfl, hindex⟩, hraised⟩)
  | sknp x =>
    obtain hkept | ⟨hindex, hraised⟩ := fault_of_skipOnKey (test := not) h
    · exact .inl hkept
    · exact .inr (.inr ⟨⟨x, .inr rfl, hindex⟩, hraised⟩)
  | _ => exact .inl (sameBut_of_exec h .fault (by simp [partsWritten]))

end Sys2Proof.Machine
end

section
/-! The obligations on the frames of the instructions and on the faults they raise (10_state.md sections 2 to 12;
60_exceptions.md section 1). -/

open Sys2Proof Sys2Proof.Machine

/-- Settles O21: the frame of each kind of update, instruction by instruction. -/
theorem instructionsWriteOnlyTheirParts : Obligations.InstructionsWriteOnlyTheirParts :=
  fun _ _ _ h => ⟨sameBut_of_exec h, regsSameBut_of_exec h⟩

/-- Settles O19: CALL and the key tests by their cases; no other instruction may write the fault status. -/
theorem faultsAreRaisedOnlyByFullCallAndBadKeyIndex : Obligations.FaultsAreRaisedOnlyByFullCallAndBadKeyIndex :=
  fun _ _ _ h => fault_of_exec h

/-- Settles O27: every instruction but the two of DT commutes with any change of it, LD DT writes it whatever it held, and
no other may write it. -/
theorem delayTimerIsReadByOneInstruction : Obligations.DelayTimerIsReadByOneInstruction := by
  refine ⟨fun i s b hget hset => ?reads, fun x s b => rfl, fun i s t hset h => sameBut_of_exec h .dt ?writes⟩
  case reads =>
    cases i with
    | ldStVx x => rfl
    | ldVxDt x => exact absurd rfl (hget x)
    | ldDtVx x => exact absurd rfl (hset x)
    | _ => exact exec_mapTimers (fun _ => b) id s (by simp) (by simp) (by simp)
  case writes =>
    cases i with
    | ldDtVx x => exact absurd rfl (hset x)
    | _ => simp [partsWritten]

end

section
/-! The canonical form of memory (20_memory.md section 1; log 4): that it is one, and that everything keeps it. -/

namespace Sys2Proof.Machine

/-! A canonical memory is determined by what it reads as: it lists the addresses that do not read as their reset contents,
each with the byte read, in rising order. -/

/-- An address that does not read as its reset content is listed, with the byte it reads as. -/
theorem Memory.mem_of_lookup_ne {m : Memory} {a : Nat} (h : m.lookup a ≠ resetByte a) : (a, m.lookup a) ∈ m := by
  induction m with
  | nil => exact absurd rfl h
  | cons e rest ih =>
    obtain ⟨k, b⟩ := e
    by_cases hk : k = a
    · simp [Memory.lookup, hk]
    · simp only [Memory.lookup, if_neg hk] at h ⊢
      exact List.mem_cons_of_mem _ (ih h)

/-- With the addresses rising each is listed once, so the byte listed is the byte read. -/
theorem Memory.lookup_of_mem {m : Memory} (hm : m.Pairwise (fun c d => c.1 < d.1)) {e : Host.Cell} (he : e ∈ m) :
    m.lookup e.1 = e.2 := by
  induction m with
  | nil => cases he
  | cons d rest ih =>
    obtain ⟨hhead, htail⟩ := List.pairwise_cons.mp hm
    rcases List.mem_cons.mp he with rfl | he
    · simp [Memory.lookup]
    · simp only [Memory.lookup, if_neg (hhead e he).ne]
      exact ih htail he

theorem Memory.mem_iff_of_wf {m : Memory} (h : m.wf = true) (e : Host.Cell) :
    e ∈ m ↔ e.1 < Config.memSize ∧ e.2 ≠ resetByte e.1 ∧ m.read e.1 = e.2 := by
  obtain ⟨hsorted, hcells⟩ := m.wf_iff.mp h
  have hread (ha : e.1 < Config.memSize) : m.read e.1 = m.lookup e.1 := by rw [Memory.read, Nat.mod_eq_of_lt ha]
  constructor
  · intro he
    obtain ⟨ha, hb⟩ := hcells e he
    exact ⟨ha, hb, (hread ha).trans (Memory.lookup_of_mem hsorted he)⟩
  · rintro ⟨ha, hb, hbyte⟩
    have hlookup : m.lookup e.1 = e.2 := (hread ha).symm.trans hbyte
    have hmem : (e.1, m.lookup e.1) ∈ m := Memory.mem_of_lookup_ne (hlookup ▸ hb)
    rwa [hlookup] at hmem

theorem Memory.eq_of_read_eq {m n : Memory} (hm : m.wf = true) (hn : n.wf = true) (h : ∀ a, m.read a = n.read a) :
    m = n := by
  have : Std.Irrefl fun c d : Host.Cell => c.1 < d.1 := ⟨fun c => lt_irrefl c.1⟩
  have : Std.Antisymm fun c d : Host.Cell => c.1 < d.1 := ⟨fun c d hcd hdc => absurd hdc hcd.asymm⟩
  refine (m.wf_iff.mp hm).1.eq_of_mem_iff (n.wf_iff.mp hn).1 fun e => ?_
  rw [Memory.mem_iff_of_wf hm, Memory.mem_iff_of_wf hn, h]

/-! Every instruction, step and transaction keeps the form. -/

theorem wf_of_exec {i : Instr} {s t : State} (hs : s.mem.wf = true) (h : exec i s = .next t) : t.mem.wf = true := by
  cases i with
  | ldB x => cases h; exact State.wf_memWrite (State.wf_memWrite (State.wf_memWrite hs _ _) _ _) _ _
  | ldStore x => cases h; exact State.wf_storeRegs hs _
  | _ =>
    rw [mem_of_exec (by simp) (by simp) h]
    exact hs

theorem mem_of_popIntoPc {policy : StackUnderflowPolicy} {s t : State} (h : popIntoPc policy s = .next t) :
    t.mem = s.mem := by
  obtain ⟨_, hpop⟩ | ⟨_, _, hclamp⟩ | ⟨_, _, hfault⟩ := popIntoPc_cases policy s
  · cases hpop.symm.trans h; rfl
  · cases hclamp.symm.trans h; rfl
  · cases hfault.symm.trans h; rfl

theorem mem_of_skipOnKey {policy : KeyIndexPolicy} {test : Bool → Bool} {x : Index} {s t : State}
    (h : skipOnKey policy test x s = .next t) : t.mem = s.mem := by
  cases hkey : s.keyState policy (s.reg x) with
  | some pressed => cases (skipOnKey_of_some hkey).symm.trans h; exact s.mem_skipIf _
  | none => cases (skipOnKey_of_none hkey).symm.trans h; rfl

theorem wf_of_execUnder {cfg : Config} {i : Instr} {s t : State} (hs : s.mem.wf = true)
    (h : execUnder cfg i s = .next t) : t.mem.wf = true := by
  cases i with
  | ret => rw [mem_of_popIntoPc h]; exact hs
  | skp x => rw [mem_of_skipOnKey (test := id) h]; exact hs
  | sknp x => rw [mem_of_skipOnKey (test := not) h]; exact hs
  | _ =>
    simp only [execUnder] at h
    exact wf_of_exec hs h

theorem wf_of_stepUnder {cfg : Config} {s t : State} (hs : s.mem.wf = true) (h : stepUnder cfg s = .next t) :
    t.mem.wf = true := by
  by_cases hf : s.fault = none
  · cases hd : decodeUnder cfg.class0Match s.fetchWord with
    | ok i => exact wf_of_execUnder (s := s.advance) hs ((stepUnder_of_decode hf hd).symm.trans h)
    | error e => cases (stepUnder_of_unknown hf hd).symm.trans h; exact hs
  · cases (stepUnder_of_fault hf).symm.trans h; exact hs

theorem wf_load {s : State} (hs : s.mem.wf = true) (rom : List Byte) : (s.load rom).mem.wf = true := by
  unfold State.load
  split
  · exact Memory.wf_writeBytes hs _ _
  · exact hs

theorem wf_resetUnder (cfg : Config) : (State.resetUnder cfg).mem.wf = true := Memory.wf_writeBytes Memory.wf_nil _ _

theorem wf_of_transactUnder {cfg : Config} {tr : Transaction} {s t : State} (hs : s.mem.wf = true)
    (h : transactUnder cfg tr s = .next t) : t.mem.wf = true := by
  cases tr with
  | reset => cases h; exact wf_resetUnder cfg
  | step => exact wf_of_stepUnder hs h
  | load rom => cases h; exact wf_load hs rom
  | setKey k p => cases h; rw [State.mem_setKey]; exact hs
  | tick | snapshot => cases h; exact hs

end Sys2Proof.Machine
end

section
/-! The invariant of the step (60_exceptions.md section 1): a recorded fault is explained by the word at pc - 2. -/

namespace Sys2Proof.Machine

theorem machineInv_iff (s : State) : machineInv s = true ↔ s.mem.wf = true ∧ faultExplained s = true :=
  Bool.and_eq_true_iff

theorem faultExplained_of_none {s : State} (hf : s.fault = none) : faultExplained s = true := by
  simp only [faultExplained, hf]

theorem faultExplained_of_call {s : State} {nnn : Addr12} (hf : s.fault = some .stackOverflow)
    (hword : decode (s.wordAt (s.pc - 2)) = .ok (.call nnn)) (hsp : s.sp.val = 16) : faultExplained s = true := by
  simp only [faultExplained, hf, hword, hsp, beq_self_eq_true]

theorem faultExplained_of_keyTest {s : State} {i : Instr} {x : Index} (hf : s.fault = some .keyIndexOutOfRange)
    (hi : i = .skp x ∨ i = .sknp x) (hword : decode (s.wordAt (s.pc - 2)) = .ok i) (hindex : 16 ≤ (s.reg x).toNat) :
    faultExplained s = true := by
  obtain rfl | rfl := hi <;> simp only [faultExplained, hf, hword, decide_eq_true hindex]

/-- An instruction that raised a fault left pc and memory, so the word at pc - 2 is the one it was decoded from. -/
theorem wordAt_of_raised {s t : State} (h : sameBut [.fault] s.advance t) : t.wordAt (t.pc - 2) = s.fetchWord := by
  have hpc : t.pc = s.pc + 2 := h .pc (by decide)
  have hmem : ∀ a, t.memRead a = s.memRead a := h .mem (by decide)
  have hback : t.pc - 2 = s.pc := by rw [hpc]; exact BitVec.add_sub_cancel s.pc 2
  simp only [State.fetchWord, State.wordAt, hback, hmem]

/-- An instruction decoded from the word at pc - 2 explains the fault it raises. -/
theorem faultExplained_of_exec {i : Instr} {s t : State} (hf : s.fault = none) (hd : decode s.fetchWord = .ok i)
    (h : exec i s.advance = .next t) : faultExplained t = true := by
  obtain hkept | ⟨⟨nnn, rfl⟩, hsp, hraised, hsame⟩ | ⟨⟨x, hi, hindex⟩, hraised, hsame⟩ := fault_of_exec h
  · exact faultExplained_of_none (hkept.trans hf)
  · have hword : decode (t.wordAt (t.pc - 2)) = .ok (.call nnn) := wordAt_of_raised hsame ▸ hd
    have hsp' : t.sp = s.sp := hsame .sp (by decide)
    exact faultExplained_of_call hraised hword (hsp' ▸ hsp)
  · have hword : decode (t.wordAt (t.pc - 2)) = .ok i := wordAt_of_raised hsame ▸ hd
    have hreg : t.reg x = s.reg x := hsame .v (by decide) x
    exact faultExplained_of_keyTest hraised hi hword (hreg ▸ hindex)

theorem machineInv_of_step {s t : State} (hs : machineInv s = true) (h : step s = .next t) : machineInv t = true := by
  obtain ⟨hwf, hexplained⟩ := (machineInv_iff s).mp hs
  have hwf' : t.mem.wf = true := wf_of_stepUnder hwf ((stepUnder_default s).trans h)
  refine (machineInv_iff t).mpr ⟨hwf', ?_⟩
  obtain ⟨-, hstep⟩ | ⟨i, hf, hd, hstep⟩ | ⟨e, hf, -, hstep⟩ := step_cases s
  · cases hstep.symm.trans h
    exact hexplained
  · exact faultExplained_of_exec hf hd (hstep.symm.trans h)
  · cases hstep.symm.trans h
    exact faultExplained_of_none hf

end Sys2Proof.Machine
end

section
/-! Sessions (60_exceptions.md R215 to R222): the transactions one after another, and what those of a faulted
block change. -/

namespace Sys2Proof.Machine

theorem runSession_cons {tr : Transaction} {s s' : State} (h : transact tr s = .next s') (ts : List Transaction) :
    runSession (tr :: ts) s = runSession ts s' := by
  simp only [runSession, h]

theorem sameBut_load (s : State) (rom : List Byte) : sameBut [.mem] s (s.load rom) := by
  intro part hpart
  cases part with
  | mem => exact absurd (List.mem_singleton_self _) hpart
  | _ => simp [Part.same]

/-- What a transaction other than reset does to a faulted block (60_exceptions.md R203, R215 to R220). -/
theorem transact_of_fault {tr : Transaction} {s : State} (hf : s.fault ≠ none) (hreset : tr ≠ .reset) :
    ∃ t, transact tr s = .next t ∧ sameBut [.dt, .st, .mem, .key] s t ∧
      ((∀ rom, tr ≠ .load rom) → Part.mem.same s t) := by
  cases tr with
  | reset => exact absurd rfl hreset
  | load rom =>
    exact ⟨s.load rom, rfl, sameBut_mono (sameBut_load s rom) (by decide), fun hload => absurd rfl (hload rom)⟩
  | step =>
    have hstay : step s = .next s := (stepUnder_default s).symm.trans (stepUnder_of_fault hf)
    exact ⟨s, hstay, sameBut_refl _ s, fun _ => Part.same_refl .mem s⟩
  | tick => exact ⟨s.tick, rfl, sameBut_mono (sameBut_tick s) (by decide), fun _ => s.memRead_tick⟩
  | setKey k p =>
    exact ⟨s.setKey k p, rfl, sameBut_mono (sameBut_setKey s k p) (by decide), fun _ => s.memRead_setKey k p⟩
  | snapshot => exact ⟨s, rfl, sameBut_refl _ s, fun _ => Part.same_refl .mem s⟩

/-- By induction on the session: the fault status stays, so every transaction finds the block faulted. -/
theorem runSession_of_fault {ts : List Transaction} {s : State} (hf : s.fault ≠ none)
    (hreset : Transaction.reset ∉ ts) : ∃ t, runSession ts s = .next t ∧ sameBut [.dt, .st, .mem, .key] s t ∧
      ((∀ rom, Transaction.load rom ∉ ts) → Part.mem.same s t) := by
  induction ts generalizing s with
  | nil => exact ⟨s, rfl, sameBut_refl _ s, fun _ => Part.same_refl .mem s⟩
  | cons tr ts ih =>
    obtain ⟨hne, hrest⟩ := List.ne_and_not_mem_of_not_mem_cons hreset
    obtain ⟨s', hs', hframe, hmem⟩ := transact_of_fault hf hne.symm
    have hf' : s'.fault = s.fault := hframe .fault (by decide)
    obtain ⟨t, ht, hframe', hmem'⟩ := ih (hf' ▸ hf) hrest
    refine ⟨t, (runSession_cons hs' ts).trans ht, sameBut_trans hframe hframe', fun hload => ?_⟩
    exact Part.same_trans (hmem fun rom heq => hload rom (heq ▸ List.mem_cons_self))
      (hmem' fun rom hin => hload rom (List.mem_cons_of_mem _ hin))

end Sys2Proof.Machine
end

section
/-! The obligations on the invariant, on memory's canonical form and on a faulted block (20_memory.md; 60_exceptions.md). -/

open Sys2Proof Sys2Proof.Machine

/-- Settles O3: every instruction keeps the canonical form, and one that raises a fault leaves pc and memory, so that the
word at pc - 2 is its own. -/
theorem stepKeepsMemoryCanonicalAndFaultsExplained : Obligations.StepKeepsMemoryCanonicalAndFaultsExplained :=
  fun _ _ hs h => machineInv_of_step hs h

/-- Settles O4: memory is only ever written by `Memory.write`, which keeps the form, or set to a memory written from the
empty one. -/
theorem transactionsKeepMemoryCanonical : Obligations.TransactionsKeepMemoryCanonical :=
  ⟨wf_resetUnder, fun _ _ _ _ hs h => wf_of_transactUnder hs h⟩

/-- Settles O5: both list exactly the addresses that do not read as their reset contents, in rising order. -/
theorem canonicalMemoriesReadingAlikeAreEqual : Obligations.CanonicalMemoriesReadingAlikeAreEqual :=
  fun _ _ hm hn h => Memory.eq_of_read_eq hm hn h

/-- Settles O2: the reset memory lists nothing, and there is no fault to explain. -/
theorem invariantHoldsAtReset : Obligations.InvariantHoldsAtReset :=
  (machineInv_iff State.reset).mpr ⟨Memory.wf_nil, faultExplained_of_none rfl⟩

/-- Settles O15: every instruction completes at every configuration, the default one among them. -/
theorem everyInstructionCompletes : Obligations.EveryInstructionCompletes :=
  fun i s => execUnder_default i s ▸ execUnder_completes Config.default i s

/-- Settles O16: an unknown word is the step's last case, and SYS is the state given back. -/
theorem unknownWordsAndSysDoNothing : Obligations.UnknownWordsAndSysDoNothing :=
  ⟨fun s _ hf hd => (stepUnder_default s).symm.trans (stepUnder_of_unknown hf hd), fun _ _ => rfl⟩

/-- Settles O20: by induction on the session, on a frame that holds the fault status. -/
theorem faultIsStickyUntilReset : Obligations.FaultIsStickyUntilReset := by
  intro ts s hf hreset
  obtain ⟨t, ht, hframe, hmem⟩ := runSession_of_fault hf hreset
  exact ⟨t, ht, hframe .fault (by decide), hframe, hmem⟩

end

section
/-! What an instruction does not depend on: the registers it does not read (10_state.md section 2), and the top four bits of
I (20_memory.md section 1). Each is a replacement of V or of I that the instruction commutes with. -/

namespace Sys2Proof.Machine

/-- The state with V and I changed. -/
def State.mapVI (fv : Vector Byte 16 → Vector Byte 16) (fi : Word → Word) (s : State) : State :=
  { s with v := fv s.v, i := fi s.i }

/-- The state with its registers replaced. -/
abbrev State.withV (u : Vector Byte 16) (s : State) : State := s.mapVI (fun _ => u) id

/-- The state with I replaced. -/
abbrev State.withI (a : Word) (s : State) : State := s.mapVI id fun _ => a

section mapVI

variable (fv : Vector Byte 16 → Vector Byte 16) (fi : Word → Word) (s : State)

theorem State.skipIf_mapVI (c : Bool) : (s.mapVI fv fi).skipIf c = (s.skipIf c).mapVI fv fi := by
  cases c <;> rfl

theorem pushAndJump_mapVI (target : Word) :
    pushAndJump target (s.mapVI fv fi) = mapNext (State.mapVI fv fi) (pushAndJump target s) := by
  by_cases h : s.sp.val < 16
  · simp [pushAndJump, h, State.mapVI, mapNext]
  · simp [pushAndJump, h, State.mapVI, mapNext, raiseFault]

theorem popIntoPc_mapVI (policy : StackUnderflowPolicy) :
    popIntoPc policy (s.mapVI fv fi) = mapNext (State.mapVI fv fi) (popIntoPc policy s) := by
  by_cases h : s.sp.val = 0
  · cases policy <;> simp [popIntoPc, h, State.mapVI, mapNext, raiseFault, State.setPc]
  · simp [popIntoPc, h, State.mapVI, mapNext]

theorem skipOnKey_mapVI (policy : KeyIndexPolicy) (test : Bool → Bool) {x : Index}
    (hx : (s.mapVI fv fi).reg x = s.reg x) :
    skipOnKey policy test x (s.mapVI fv fi) = mapNext (State.mapVI fv fi) (skipOnKey policy test x s) := by
  cases h : s.keyState policy (s.reg x) with
  | some pressed =>
    have h' : (s.mapVI fv fi).keyState policy ((s.mapVI fv fi).reg x) = some pressed := hx ▸ h
    rw [skipOnKey_of_some h, skipOnKey_of_some h', State.skipIf_mapVI]
    rfl
  | none =>
    have h' : (s.mapVI fv fi).keyState policy ((s.mapVI fv fi).reg x) = none := hx ▸ h
    rw [skipOnKey_of_none h, skipOnKey_of_none h']
    rfl

/-- An instruction that writes neither V nor I nor memory commutes with a change of V and I that keeps the registers it
reads. -/
theorem exec_mapVI {i : Instr} (hread : ∀ r ∈ regsRead i, (s.mapVI fv fi).reg r = s.reg r)
    (hv : Part.v ∉ partsWritten i) (hi : Part.i ∉ partsWritten i) (hmem : Part.mem ∉ partsWritten i) :
    exec i (s.mapVI fv fi) = mapNext (State.mapVI fv fi) (exec i s) := by
  cases i with
  | sys | cls | jp => rfl
  | ret => exact popIntoPc_mapVI fv fi s Config.default.stackUnderflow
  | call => exact pushAndJump_mapVI fv fi s _
  | seImm x kk =>
    have hx := hread x List.mem_cons_self
    simp only [exec, execSeImm, hx, State.skipIf_mapVI, mapNext]
  | sneImm x kk =>
    have hx := hread x List.mem_cons_self
    simp only [exec, execSneImm, hx, State.skipIf_mapVI, mapNext]
  | seReg x y =>
    have hx := hread x List.mem_cons_self
    have hy := hread y (List.mem_cons_of_mem _ List.mem_cons_self)
    simp only [exec, execSeReg, hx, hy, State.skipIf_mapVI, mapNext]
  | sneReg x y =>
    have hx := hread x List.mem_cons_self
    have hy := hread y (List.mem_cons_of_mem _ List.mem_cons_self)
    simp only [exec, execSneReg, hx, hy, State.skipIf_mapVI, mapNext]
  | jpV0 nnn =>
    have h0 := hread 0 List.mem_cons_self
    simp only [exec, execJpV0, h0]
    rfl
  | skp x => exact skipOnKey_mapVI fv fi s _ id (hread x List.mem_cons_self)
  | sknp x => exact skipOnKey_mapVI fv fi s _ not (hread x List.mem_cons_self)
  | ldDtVx x =>
    have hx := hread x List.mem_cons_self
    simp only [exec, execLdDtVx, hx]
    rfl
  | ldStVx x =>
    have hx := hread x List.mem_cons_self
    simp only [exec, execLdStVx, hx]
    rfl
  | ldI | addI | ldF => exact absurd List.mem_cons_self hi
  | ldB | ldStore => exact absurd List.mem_cons_self hmem
  | _ => exact absurd List.mem_cons_self hv

end mapVI

/-! The registers an instruction does not read. -/

/-- `t` and `t'`, reached from `s` and `s'`, agree in every part but V, and each register has the same value in both or is
left alone in both. -/
def SameOrUntouched (s s' t t' : State) : Prop :=
  sameBut [.v] t t' ∧ ∀ r : Index, t'.reg r = t.reg r ∨ (t.reg r = s.reg r ∧ t'.reg r = s'.reg r)

/-- Registers that were not written are left alone. -/
theorem sameOrUntouched_withV {s t : State} (u : Vector Byte 16) (h : ∀ r, t.reg r = s.reg r) :
    SameOrUntouched s (s.withV u) t (t.withV u) := by
  refine ⟨fun part hpart => ?_, fun r => .inr ⟨h r, rfl⟩⟩
  cases part with
  | v => exact absurd (List.mem_singleton_self _) hpart
  | stack | mem | key => exact fun _ => rfl
  | fb => exact fun _ _ => rfl
  | _ => exact rfl

/-- A register written with the same value has it in both. -/
theorem SameOrUntouched.setReg {s s' t t' : State} (h : SameOrUntouched s s' t t') (x : Index) (b : Byte) :
    SameOrUntouched s s' (t.setReg x b) (t'.setReg x b) := by
  obtain ⟨hparts, hregs⟩ := h
  constructor
  · intro part hpart
    have hsame := hparts part hpart
    cases part with
    | v => exact absurd (List.mem_singleton_self _) hpart
    | _ => exact hsame
  · intro r
    by_cases hr : r = x
    · exact .inl (by rw [hr, State.reg_setReg_self, State.reg_setReg_self])
    · simpa only [State.reg_setReg, if_neg hr] using hregs r

theorem SameOrUntouched.setResultThenFlag {s s' t t' : State} (h : SameOrUntouched s s' t t') (x : Index) (b : Byte)
    (c : Bool) : SameOrUntouched s s' (t.setResultThenFlag x b c) (t'.setResultThenFlag x b c) :=
  (h.setReg x b).setReg vf (flagByte c)

theorem State.storeRegs_withV (u : Vector Byte 16) (s : State) (n : Nat)
    (hread : ∀ k < n, (s.withV u).reg (Fin.ofNat 16 k) = s.reg (Fin.ofNat 16 k)) :
    (s.withV u).storeRegs n = (s.storeRegs n).withV u := by
  induction n with
  | zero => rfl
  | succ k ih =>
    rw [State.storeRegs_succ, State.storeRegs_succ, ih fun j hj => hread j (by omega), hread k (by omega)]
    rfl

theorem sameOrUntouched_loadRegs (u : Vector Byte 16) (s : State) (n : Nat) :
    SameOrUntouched s (s.withV u) (s.loadRegs n) ((s.withV u).loadRegs n) := by
  induction n with
  | zero => exact sameOrUntouched_withV u fun _ => rfl
  | succ k ih =>
    rw [State.loadRegs_succ, State.loadRegs_succ]
    exact ih.setReg _ _

/-- An instruction that writes no register commutes with a replacement of V that keeps the registers it reads. -/
theorem exec_withV {i : Instr} (u : Vector Byte 16) (s : State) (hread : ∀ r ∈ regsRead i, (s.withV u).reg r = s.reg r)
    (hv : Part.v ∉ partsWritten i) : exec i (s.withV u) = mapNext (State.withV u) (exec i s) := by
  cases i with
  | ldI => rfl
  | addI x =>
    have hx := hread x List.mem_cons_self
    simp only [exec, execAddI, hx]
    rfl
  | ldF x =>
    have hx := hread x List.mem_cons_self
    simp only [exec, execLdF, hx]
    rfl
  | ldB x =>
    have hx := hread x List.mem_cons_self
    simp only [exec, execLdB, hx]
    rfl
  | ldStore x =>
    refine congrArg Host.Outcome.next (State.storeRegs_withV u s _ fun k hk => hread _ ?_)
    have hkx : Fin.ofNat 16 k ≤ x := Fin.le_def.mpr ((Nat.mod_le k 16).trans (Nat.le_of_lt_succ hk))
    exact List.mem_filter.mpr ⟨List.mem_finRange _, decide_eq_true hkx⟩
  | _ => exact exec_mapVI _ _ s hread hv (by simp [partsWritten]) (by simp [partsWritten])

theorem sameOrUntouched_of_exec {i : Instr} {s t t' : State} (u : Vector Byte 16)
    (hread : ∀ r ∈ regsRead i, (s.withV u).reg r = s.reg r) (h : exec i s = .next t)
    (h' : exec i (s.withV u) = .next t') : SameOrUntouched s (s.withV u) t t' := by
  have start : SameOrUntouched s (s.withV u) s (s.withV u) := sameOrUntouched_withV u fun _ => rfl
  cases i with
  | ldImm | ldVxDt => cases h; cases h'; exact start.setReg _ _
  | addImm x kk =>
    cases h; cases h'
    rw [hread x List.mem_cons_self]
    exact start.setReg _ _
  | ldReg x y =>
    cases h; cases h'
    rw [hread y List.mem_cons_self]
    exact start.setReg _ _
  | or x y | and x y | xor x y =>
    cases h; cases h'
    rw [hread x List.mem_cons_self, hread y (List.mem_cons_of_mem _ List.mem_cons_self)]
    exact start.setReg _ _
  | addReg x y | sub x y | subn x y =>
    cases h; cases h'
    rw [hread x List.mem_cons_self, hread y (List.mem_cons_of_mem _ List.mem_cons_self)]
    exact start.setResultThenFlag _ _ _
  | shr x y | shl x y =>
    cases h; cases h'
    rw [hread x List.mem_cons_self]
    exact start.setResultThenFlag _ _ _
  | rnd x kk =>
    cases h; cases h'
    have counted := sameOrUntouched_withV (s := s) (t := { s with draws := s.draws + 1 }) u fun _ => rfl
    exact counted.setReg x _
  | drw x y n =>
    cases h; cases h'
    rw [hread x List.mem_cons_self, hread y (List.mem_cons_of_mem _ List.mem_cons_self)]
    have drawn := sameOrUntouched_withV (s := s)
      (t := { s with fb := (drawSprite s.fb (s.reg x) (s.reg y) (s.bytesAtI n.val)).1 }) u fun _ => rfl
    exact drawn.setReg vf _
  | ldK x =>
    cases hkey : s.lowestKey with
    | none =>
      cases (execLdK_of_none hkey).symm.trans h
      cases (execLdK_of_none (s := s.withV u) hkey).symm.trans h'
      exact sameOrUntouched_withV u fun _ => rfl
    | some k =>
      cases (execLdK_of_some hkey).symm.trans h
      cases (execLdK_of_some (s := s.withV u) hkey).symm.trans h'
      exact start.setReg _ _
  | ldLoad x => cases h; cases h'; exact sameOrUntouched_loadRegs u s _
  | _ =>
    have hcomm := exec_withV u s hread (by simp [partsWritten])
    rw [h] at hcomm
    cases hcomm.symm.trans h'
    exact sameOrUntouched_withV u fun r => regsSameBut_of_exec h r (by simp [regsWritten])

/-! The top four bits of I. -/

/-- An access sees of an address only the byte that Mask names (20_memory.md R51). -/
theorem State.memWrite_congr_mask (s : State) {a c : Word} (h : mask a = mask c) (b : Byte) :
    s.memWrite a b = s.memWrite c b := by
  have hmod : a.toNat % Config.memSize = c.toNat % Config.memSize := h
  simp only [State.memWrite, Memory.write, hmod]

theorem execLdK_withI (a : Word) (s : State) (x : Index) :
    execLdK x (s.withI a) = mapNext (State.withI a) (execLdK x s) := by
  cases hkey : s.lowestKey with
  | none => rw [execLdK_of_none hkey, execLdK_of_none (s := s.withI a) hkey]; rfl
  | some k => rw [execLdK_of_some hkey, execLdK_of_some (s := s.withI a) hkey]; rfl

section withI

variable {a : Word} {s : State} (hmask : mask a = mask s.i)
include hmask

theorem mask_effAddr_withI (k : Nat) : mask ((s.withI a).effAddr k) = mask (s.effAddr k) := by
  simp only [mask, Config.memSize] at hmask
  simp only [mask, State.effAddr, State.mapVI, BitVec.toNat_add, Config.memSize]
  omega

theorem bytesAtI_withI (n : Nat) : (s.withI a).bytesAtI n = s.bytesAtI n :=
  List.map_congr_left fun k _ => s.memRead_congr_mask (mask_effAddr_withI hmask k)

theorem storeRegs_withI (n : Nat) : (s.withI a).storeRegs n = (s.storeRegs n).withI a := by
  induction n with
  | zero => rfl
  | succ k ih =>
    rw [State.storeRegs_succ, State.storeRegs_succ, ih, State.memWrite_congr_mask _ (mask_effAddr_withI hmask k)]
    rfl

theorem loadRegs_withI (n : Nat) : (s.withI a).loadRegs n = (s.loadRegs n).withI a := by
  induction n with
  | zero => rfl
  | succ k ih =>
    rw [State.loadRegs_succ, State.loadRegs_succ, ih, State.memRead_congr_mask _ (mask_effAddr_withI hmask k)]
    rfl

/-- An instruction that does not write I commutes with a change of its top four bits. -/
theorem exec_withI {i : Instr} (hi : Part.i ∉ partsWritten i) :
    exec i (s.withI a) = mapNext (State.withI a) (exec i s) := by
  cases i with
  | ldI | addI | ldF => exact absurd List.mem_cons_self hi
  | drw x y n =>
    simp only [exec, execDrw, bytesAtI_withI hmask]
    rfl
  | ldB x =>
    have hk := mask_effAddr_withI hmask
    simp only [exec, execLdB, State.memWrite_congr_mask _ (hk 0), State.memWrite_congr_mask _ (hk 1),
      State.memWrite_congr_mask _ (hk 2)]
    rfl
  | ldStore x => exact congrArg Host.Outcome.next (storeRegs_withI hmask _)
  | ldLoad x => exact congrArg Host.Outcome.next (loadRegs_withI hmask _)
  | ldK x => exact execLdK_withI a s x
  | ldImm | addImm | ldReg | or | and | xor | ldVxDt | addReg | sub | subn | shr | shl | rnd => rfl
  | _ => exact exec_mapVI _ _ s (fun _ _ => rfl) (by simp [partsWritten]) hi (by simp [partsWritten])

end withI

theorem sameBut_of_exec_withI {i : Instr} {s t t' : State} {a : Word} (hmask : mask a = mask s.i)
    (h : exec i s = .next t) (h' : exec i (s.withI a) = .next t') : sameBut [.i] t t' := by
  cases i with
  | ldI | ldF => cases h; cases h'; exact sameBut_refl _ _
  | addI x => cases h; cases h'; exact sameBut_setI (s.setI _) _
  | _ =>
    rw [exec_withI hmask, h] at h'
    · cases h'
      exact sameBut_setI t a
    · simp [partsWritten]

end Sys2Proof.Machine
end

section
/-! The obligations on what an instruction does not depend on (10_state.md section 2; 20_memory.md section 1). -/

open Sys2Proof Sys2Proof.Machine

/-- Settles O22: what writes no register commutes with the change of V; what writes one writes the same value, computed from
registers that did not change. -/
theorem instructionsReadOnlyTheirRegisters : Obligations.InstructionsReadOnlyTheirRegisters :=
  fun _ _ _ _ u hread h h' => sameOrUntouched_of_exec u hread h h'

/-- Settles O24: the three writes of I aside, every instruction commutes with a change of I that keeps Mask(I), since memory
sees of an address only Mask of it. -/
theorem topBitsOfIDoNotReachMemory : Obligations.TopBitsOfIDoNotReachMemory :=
  fun _ _ _ _ _ hmask h h' => sameBut_of_exec_withI hmask h h'

end

section
/-! Calls and returns (40_control_flow.md R101, R103), and the sums of addresses. -/

namespace Sys2Proof.Machine

theorem toNat_wordOf (b : Byte) : (wordOf b).toNat = b.toNat := BitVec.toNat_setWidth_of_le (by decide)

/-- A push below the capacity. -/
theorem pushAndJump_of_lt (target : Word) {s : State} (hsp : s.sp.val < 16) : ∃ t, pushAndJump target s = .next t ∧
    (∀ k : Index, t.stackEntry k = if k.val = s.sp.val then s.pc else s.stackEntry k) ∧ t.sp.val = s.sp.val + 1 ∧
    t.pc = target ∧ sameBut [.pc, .stack, .sp] s t := by
  obtain ⟨_, hpush⟩ | ⟨hfull, -⟩ := pushAndJump_cases target s
  · refine ⟨_, hpush, fun k => ?_, rfl, rfl, sameBut_pushed s _ _ _⟩
    simp only [State.stackEntry, Vector.getElem_set, eq_comm]
  · omega

/-- A push at the capacity (D5). -/
theorem pushAndJump_of_full (target : Word) {s : State} (hsp : s.sp.val = 16) : ∃ t, pushAndJump target s = .next t ∧
    t.fault = some .stackOverflow ∧ sameBut [.fault] s t := by
  obtain ⟨hlt, -⟩ | ⟨-, hfull⟩ := pushAndJump_cases target s
  · omega
  · exact ⟨_, hfull, rfl, sameBut_fault s _⟩

/-- A pop of a stack that is not empty, under every policy. -/
theorem popIntoPc_of_pos (policy : StackUnderflowPolicy) {s : State} {k : Index} (hsp : s.sp.val = k.val + 1) :
    ∃ t, popIntoPc policy s = .next t ∧ t.pc = s.stackEntry k ∧ t.sp.val = k.val ∧ sameBut [.pc, .sp] s t := by
  obtain ⟨_, hpop⟩ | ⟨hempty, -⟩ | ⟨hempty, -⟩ := popIntoPc_cases policy s
  · refine ⟨_, hpop, ?_, Nat.sub_eq_of_eq_add hsp, sameBut_popped s _ _⟩
    simp only [State.stackEntry, hsp, Nat.add_sub_cancel]
  · omega
  · omega

/-- A pop of an empty stack at the default policy (D6). -/
theorem popIntoPc_clamp_of_empty {s : State} (hsp : s.sp.val = 0) :
    ∃ t, popIntoPc .clamp s = .next t ∧ t.pc = s.stackEntry 0 ∧ sameBut [.pc] s t := by
  obtain ⟨hne, -⟩ | ⟨-, -, hclamp⟩ | ⟨-, hpolicy, -⟩ := popIntoPc_cases .clamp s
  · exact absurd hsp hne
  · exact ⟨_, hclamp, rfl, sameBut_setPc s _⟩
  · cases hpolicy

/-- A pop of an empty stack at the policy `fault` (D6). -/
theorem popIntoPc_fault_of_empty {policy : StackUnderflowPolicy} (hpolicy : policy = .fault) {s : State}
    (hsp : s.sp.val = 0) :
    ∃ t, popIntoPc policy s = .next t ∧ t.fault = some .stackUnderflow ∧ sameBut [.fault] s t := by
  obtain ⟨hne, -⟩ | ⟨-, hclamp, -⟩ | ⟨-, -, hfault⟩ := popIntoPc_cases policy s
  · exact absurd hsp hne
  · cases hclamp.symm.trans hpolicy
  · exact ⟨_, hfault, rfl, sameBut_fault s _⟩

end Sys2Proof.Machine
end

section
/-! The obligations on jumps, calls, returns and register skips (40_control_flow.md section 2). -/

open Sys2Proof Sys2Proof.Machine

/-- Settles O29: one write of pc, of a 16-bit sum. -/
theorem jpV0AddsTheFirstRegister : Obligations.JpV0AddsTheFirstRegister := by
  refine fun nnn s => ⟨s.setPc (addrOf nnn + wordOf (s.reg 0)), rfl, ?_, sameBut_setPc s _⟩
  rw [State.pc_setPc, BitVec.toNat_add, toNat_addrOf, toNat_wordOf]

/-- Settles O30: CALL is a push to the target's address. -/
theorem callPushesOrOverflows : Obligations.CallPushesOrOverflows := by
  refine fun nnn s => ⟨fun hsp => ?_, fun hsp => pushAndJump_of_full (addrOf nnn) hsp⟩
  obtain ⟨t, ht, hentry, hsp', hpc, hframe⟩ := pushAndJump_of_lt (addrOf nnn) hsp
  exact ⟨t, ht, hentry, hsp', hpc ▸ toNat_addrOf nnn, hframe⟩

/-- Settles O31: RET is a pop at the policy of the configuration, and at clamp by default. -/
theorem retPopsOrClamps : Obligations.RetPopsOrClamps :=
  fun _ => ⟨fun _ hsp => ⟨popIntoPc_of_pos .clamp hsp, fun cfg => popIntoPc_of_pos cfg.stackUnderflow hsp⟩,
    fun hsp => popIntoPc_clamp_of_empty hsp, fun _ hpolicy hsp => popIntoPc_fault_of_empty hpolicy hsp⟩

/-- Settles O32: the pop takes back the entry that the push stored, pc after the call. -/
theorem returnUndoesCall : Obligations.ReturnUndoesCall := by
  intro nnn s t u hlt hcall hstack hsp
  obtain ⟨t', ht', hentry, hsp', -⟩ := pushAndJump_of_lt (addrOf nnn) hlt
  cases ht'.symm.trans hcall
  have hu : u.sp.val = (⟨s.sp.val, hlt⟩ : Index).val + 1 := (congrArg Fin.val hsp).trans hsp'
  obtain ⟨r, hr, hpc, hrsp, hframe⟩ := popIntoPc_of_pos .clamp hu
  have htop : u.stackEntry ⟨s.sp.val, hlt⟩ = t.stackEntry ⟨s.sp.val, hlt⟩ := by simp only [State.stackEntry, hstack]
  exact ⟨r, hr, hpc.trans (htop.trans ((hentry _).trans (if_pos rfl))), Fin.ext hrsp, hframe⟩

/-- Settles O34: both are `skipIf` of a test that decides the condition; with x = y the tests are constant. -/
theorem registerSkipsAddTwo : Obligations.RegisterSkipsAddTwo := by
  refine ⟨fun x y s => ⟨⟨s.skipIf (s.reg x == s.reg y), rfl, s.pc_skipIf_of_iff beq_iff_eq, sameBut_skipIf s _⟩,
    s.skipIf (s.reg x != s.reg y), rfl, ?_, sameBut_skipIf s _⟩,
    fun x s => ⟨⟨s.skipIf (s.reg x == s.reg x), rfl, ?_⟩, ?_⟩⟩
  · rw [s.pc_skipIf_of_iff bne_iff_ne, ite_not]
  · rw [beq_self_eq_true]; rfl
  · have hskip : exec (.sneReg x x) s = .next (s.skipIf (s.reg x != s.reg x)) := rfl
    rw [hskip, bne_self_eq_false]
    rfl

end

section
/-! Results with a flag (41_alu.md R126 to R133): what V[x] and VF hold, as numbers. -/

namespace Sys2Proof.Machine

theorem State.reg_setResultThenFlag_result (s : State) {x : Index} (hx : x ≠ vf) (b : Byte) (c : Bool) :
    (s.setResultThenFlag x b c).reg x = b := by
  rw [State.reg_setResultThenFlag, if_neg hx, if_pos rfl]

theorem State.reg_setResultThenFlag_flag (s : State) (x : Index) (b : Byte) (c : Bool) :
    (s.setResultThenFlag x b c).reg vf = flagByte c := by
  rw [State.reg_setResultThenFlag, if_pos rfl]

theorem toNat_flagByte_decide (p : Prop) [Decidable p] : (flagByte (decide p)).toNat = if p then 1 else 0 := by
  by_cases hp : p <;> simp [flagByte, hp]

/-- The difference mod 256 of the exact integers. -/
theorem toNat_sub_int (a b : Byte) : ((a - b).toNat : Int) = (a.toNat - b.toNat : Int) % 256 := by
  rw [BitVec.toNat_sub]
  omega

theorem toNat_flagByte_shiftedOutRight (a : Byte) : (flagByte (shiftedOutRight a)).toNat = a.toNat % 2 := by
  have hbit : shiftedOutRight a = decide (a.toNat % 2 = 1) := Nat.testBit_zero a.toNat
  rw [hbit, toNat_flagByte_decide]
  split <;> omega

theorem toNat_flagByte_shiftedOutLeft (a : Byte) : (flagByte (shiftedOutLeft a)).toNat = a.toNat / 128 := by
  have hbit : shiftedOutLeft a = decide (a.toNat / 128 % 2 = 1) := Nat.testBit_eq_decide_div_mod_eq
  rw [hbit, toNat_flagByte_decide]
  split <;> omega

end Sys2Proof.Machine
end

section
/-! The obligations on the flagged instructions and on RND (41_alu.md sections 1, 3 and 4). -/

open Sys2Proof Sys2Proof.Machine

/-- Settles O38: the 8-bit sum, and the carry of the exact one. -/
theorem addSetsCarry : Obligations.AddSetsCarry := by
  refine fun x y s => ⟨_, rfl, fun hx => ?_, ?_, (frame_setResultThenFlag s x _ _).symm⟩
  · rw [s.reg_setResultThenFlag_result hx, BitVec.toNat_add]
  · rw [s.reg_setResultThenFlag_flag, carryOut, toNat_flagByte_decide]

/-- Settles O39: the 8-bit difference, and the comparison of its operands. -/
theorem subtractionsSetNoBorrow : Obligations.SubtractionsSetNoBorrow := by
  refine fun x y s => ⟨⟨_, rfl, fun hx => ?_, ?_, (frame_setResultThenFlag s x _ _).symm⟩,
    _, rfl, fun hx => ?_, ?_, (frame_setResultThenFlag s x _ _).symm⟩
  · rw [s.reg_setResultThenFlag_result hx, toNat_sub_int]
  · rw [s.reg_setResultThenFlag_flag, noBorrow, toNat_flagByte_decide]
  · rw [s.reg_setResultThenFlag_result hx, toNat_sub_int]
  · rw [s.reg_setResultThenFlag_flag, noBorrow, toNat_flagByte_decide]

/-- Settles O40: a shift by one halves or doubles, and the flag is bit 0 or bit 7. -/
theorem shiftsMoveOneBitIntoVF : Obligations.ShiftsMoveOneBitIntoVF := by
  refine fun x y s => ⟨⟨_, rfl, fun hx => ?_, ?_, (frame_setResultThenFlag s x _ _).symm⟩,
    _, rfl, fun hx => ?_, ?_, (frame_setResultThenFlag s x _ _).symm⟩
  · rw [s.reg_setResultThenFlag_result hx, BitVec.toNat_ushiftRight, Nat.shiftRight_one]
  · rw [s.reg_setResultThenFlag_flag, toNat_flagByte_shiftedOutRight]
  · rw [s.reg_setResultThenFlag_result hx, BitVec.toNat_shiftLeft, Nat.shiftLeft_eq, pow_one, mul_comm]
  · rw [s.reg_setResultThenFlag_flag, toNat_flagByte_shiftedOutLeft]

/-- Settles O41: one write of V[x] for any byte, and RND is that with the next free one. -/
theorem rndMasksAnyRandomByte : Obligations.RndMasksAnyRandomByte := by
  have hrnd (r : Byte) (x : Index) (kk : Byte) (s : State) : ∃ t, rndWith r x kk s = .next t ∧ t.reg x = r &&& kk ∧
      t.draws = s.draws + 1 ∧ regsSameBut [x] s t ∧ sameBut [.v, .draws] s t :=
    ⟨_, rfl, s.reg_setReg_self x _, rfl, (frame_of_rndWith rfl).symm⟩
  exact ⟨fun x kk s => hrnd (Config.randomByte s.draws) x kk s, hrnd⟩

end

section
/-! Keys (43_keys_timers.md R160 to R166): a key test is a skip on the key's state, and a key wait takes the lowest key. -/

namespace Sys2Proof.Machine

section keyTests

variable {policy : KeyIndexPolicy} {x : Index} {s : State} {pressed : Bool}

/-- SKP, where the register names a key state. -/
theorem skp_of_keyState (h : s.keyState policy (s.reg x) = some pressed) : ∃ t, skipOnKey policy id x s = .next t ∧
    t.pc = (if pressed then s.pc + 2 else s.pc) ∧ sameBut [.pc] s t :=
  ⟨_, skipOnKey_of_some h, s.pc_skipIf pressed, sameBut_skipIf s _⟩

/-- SKNP, where the register names a key state. -/
theorem sknp_of_keyState (h : s.keyState policy (s.reg x) = some pressed) : ∃ t, skipOnKey policy not x s = .next t ∧
    t.pc = (if pressed then s.pc else s.pc + 2) ∧ sameBut [.pc] s t := by
  refine ⟨_, skipOnKey_of_some h, ?_, sameBut_skipIf s _⟩
  cases pressed <;> rfl

/-- A key test of a register above 15 at the default policy (D14). -/
theorem skipOnKey_fault_of_ge (test : Bool → Bool) (h : 16 ≤ (s.reg x).toNat) :
    ∃ t, skipOnKey .fault test x s = .next t ∧ t.fault = some .keyIndexOutOfRange ∧ sameBut [.fault] s t :=
  ⟨_, skipOnKey_of_none (s.keyState_of_ge .fault (not_lt.mpr h)), rfl, sameBut_fault s _⟩

end keyTests

/-- LD Vx, K with keys held. -/
theorem execLdK_takes_lowest (x : Index) {s : State} {k : Index} (hheld : s.keyPressed k = true)
    (hlowest : ∀ j : Index, j < k → s.keyPressed j = false) :
    ∃ t, execLdK x s = .next t ∧ (t.reg x).toNat = k.val ∧ regsSameBut [x] s t ∧ sameBut [.v] s t := by
  have hkey : s.lowestKey = some k := (s.lowestKey_eq_some k).mpr ⟨hheld, hlowest⟩
  refine ⟨_, execLdK_of_some hkey, ?_, frame_setReg s x _⟩
  rw [State.reg_setReg_self, BitVec.toNat_ofNat, Nat.mod_eq_of_lt (by omega)]

/-- LD Vx, K with no key held. -/
theorem execLdK_waits (x : Index) {s : State} (hnone : ∀ k : Index, s.keyPressed k = false) :
    execLdK x s = .next (s.setPc (s.pc - 2)) := execLdK_of_none (s.lowestKey_eq_none.mpr hnone)

end Sys2Proof.Machine
end

section
/-! The obligations on the key instructions (43_keys_timers.md sections 1 and 2). -/

open Sys2Proof Sys2Proof.Machine

/-- Settles O46: up to 15 the register names its key, above it the default policy raises. -/
theorem keySkipsTestTheNamedKey : Obligations.KeySkipsTestTheNamedKey :=
  ⟨fun _ _ s hk =>
      ⟨skp_of_keyState (s.keyState_of_toNat_eq .fault hk), sknp_of_keyState (s.keyState_of_toNat_eq .fault hk)⟩,
    fun _ _ hindex => ⟨skipOnKey_fault_of_ge id hindex, skipOnKey_fault_of_ge not hindex⟩⟩

/-- Settles O47: the key state that the register names under each policy. -/
theorem keyIndexPoliciesAboveFifteen : Obligations.KeyIndexPoliciesAboveFifteen := by
  refine fun cfg x s => ⟨fun k hk => ⟨skp_of_keyState (s.keyState_of_toNat_eq cfg.keyIndex hk),
    sknp_of_keyState (s.keyState_of_toNat_eq cfg.keyIndex hk)⟩,
    fun hindex => ⟨fun hpolicy k hk => ?low, fun hpolicy => ?not⟩⟩
  case low =>
    have hkey : s.keyState cfg.keyIndex (s.reg x) = some (s.keyPressed k) := by
      have hname : Fin.ofNat 16 (s.reg x).toNat = k := Fin.ext hk
      rw [hpolicy, s.keyState_of_ge .lowNibble (not_lt.mpr hindex), hname]
    exact ⟨skp_of_keyState hkey, sknp_of_keyState hkey⟩
  case not =>
    have hkey : s.keyState cfg.keyIndex (s.reg x) = some false := by
      rw [hpolicy, s.keyState_of_ge .notPressed (not_lt.mpr hindex)]
    exact ⟨skipOnKey_of_some (test := id) hkey, sknp_of_keyState hkey⟩

/-- Settles O48: one write of V[x], of the lowest key held, or one write of pc. -/
theorem ldKTakesTheLowestKeyOrWaits : Obligations.LdKTakesTheLowestKeyOrWaits :=
  fun x s => ⟨fun _ hheld hlowest => execLdK_takes_lowest x hheld hlowest,
    fun hnone => ⟨_, execLdK_waits x hnone, rfl, sameBut_setPc s _⟩⟩

end

section
/-! Steps that lead back to the same state: waiting for a key (43_keys_timers.md R162), and the end of a run
(60_exceptions.md R224). -/

namespace Sys2Proof.Machine

/-- The pre-advance is undone by putting pc back. -/
theorem State.advance_setPc (s : State) : s.advance.setPc s.pc = s := rfl

/-- Any number of steps that lead back to the same state. -/
theorem runSession_replicate_step {s : State} (h : step s = .next s) (n : Nat) (ts : List Transaction) :
    runSession (List.replicate n .step ++ ts) s = runSession ts s := by
  induction n with
  | zero => rfl
  | succ n ih =>
    rw [List.replicate_succ, List.cons_append, runSession_cons (tr := .step) h, ih]

theorem runSession_replicate_step_only {s : State} (h : step s = .next s) (n : Nat) :
    runSession (List.replicate n .step) s = .next s := by
  simpa only [List.append_nil, runSession] using runSession_replicate_step h n []

/-- A step that waits for a key. -/
theorem step_of_waiting {s : State} {x : Index} (hf : s.fault = none) (hd : decode s.fetchWord = .ok (.ldK x))
    (hnone : ∀ k : Index, s.keyPressed k = false) : step s = .next s := by
  have hback : s.advance.pc - 2 = s.pc := BitVec.add_sub_cancel s.pc 2
  have hwait : exec (.ldK x) s.advance = .next (s.advance.setPc (s.advance.pc - 2)) := execLdK_waits x hnone
  rw [step_of_decode hf hd, hwait, hback, State.advance_setPc]

/-- The step that takes the one key held. -/
theorem step_of_key {s : State} {x k : Index} (hf : s.fault = none) (hd : decode s.fetchWord = .ok (.ldK x))
    (honly : ∀ j : Index, s.keyPressed j = if j = k then true else false) : ∃ t, step s = .next t ∧
    (t.reg x).toNat = k.val ∧ t.pc = s.pc + 2 ∧ regsSameBut [x] s t ∧ sameBut [.v, .pc] s t := by
  have hlowest (j : Index) (hj : j < k) : s.advance.keyPressed j = false := (honly j).trans (if_neg hj.ne)
  obtain ⟨t, ht, hreg, hregs, hparts⟩ := execLdK_takes_lowest x (s := s.advance) ((honly k).trans (if_pos rfl)) hlowest
  exact ⟨t, (step_of_decode hf hd).trans ht, hreg, hparts .pc (by decide), hregs,
    sameBut_trans (sameBut_mono (sameBut_setPc s _) (by decide)) (sameBut_mono hparts (by decide))⟩

/-- A step of a run that has ended. -/
theorem step_of_ended {s : State} (h : endedNormally s = true) : step s = .next s := by
  unfold endedNormally running at h
  split at h
  · next nnn hd =>
    obtain ⟨hf, htarget⟩ := Bool.and_eq_true_iff.mp h
    have hpc : addrOf nnn = s.pc := eq_of_beq htarget
    have hjp : exec (.jp nnn) s.advance = .next (s.advance.setPc (addrOf nnn)) := rfl
    rw [step_of_decode (eq_of_beq hf) hd, hjp, hpc, State.advance_setPc]
  · simp at h

end Sys2Proof.Machine
end

section
/-! The obligations on sessions of steps (95_test_vectors.md section 1; 60_exceptions.md section 5), and on the bytes that a
step fetches (20_memory.md sections 3 and 7). -/

open Sys2Proof Sys2Proof.Machine

/-- Settles O49: a waiting step leads back to its state; after the key is set, the step takes it. -/
theorem waitForKeyHoldsThenTakesTheKey : Obligations.WaitForKeyHoldsThenTakesTheKey := by
  intro x k s hf hd hnone n
  have hwait : step s = .next s := step_of_waiting hf hd hnone
  refine ⟨runSession_replicate_step_only hwait n, ?_⟩
  have hd' : decode (s.setKey k.val true).fetchWord = .ok (.ldK x) := by
    simpa only [State.fetchWord, State.wordAt, State.pc_setKey, State.memRead_setKey] using hd
  have honly (j : Index) : (s.setKey k.val true).keyPressed j = if j = k then true else false := by
    rw [State.keyPressed_setKey_of_index, hnone]
  obtain ⟨t, ht, hreg, hpc, hregs, hparts⟩ := step_of_key ((s.fault_setKey _ _).trans hf) hd' honly
  refine ⟨t, ?_, hreg, hpc.trans (by rw [State.pc_setKey]), fun r hr => (hregs r hr).trans (s.reg_setKey _ _ r), ?_⟩
  · rw [runSession_replicate_step hwait, runSession_cons (tr := .setKey k.val true) rfl,
      runSession_cons (tr := .step) ht]
    rfl
  · exact sameBut_trans (sameBut_mono (sameBut_setKey s k.val true) (by decide)) (sameBut_mono hparts (by decide))

/-- Settles O58: JP to its own address leads back to the same state. -/
theorem endedRunStaysEnded : Obligations.EndedRunStaysEnded :=
  fun _ h n => runSession_replicate_step_only (step_of_ended h) n

end

section
/-! Drawing with DRW and drawing twice (42_display.md R141 to R144). -/

namespace Sys2Proof.Machine

/-- Toggling the same pixels again gives the screen back. -/
theorem Toggles.twice {covered : Nat → Nat → Bool} {d e f : Drawing} (hde : Toggles covered d e)
    (hef : Toggles covered (e.1, false) f) : f.1 = d.1 ∧
      (f.2 = true ↔ ∃ row col, e.1.pixel row col = true ∧ d.1.pixel row col = false) := by
  obtain ⟨hfirst, -⟩ := hde
  obtain ⟨hsecond, hcollision⟩ := hef
  constructor
  · refine Framebuffer.ext_pixel fun row col _ _ => ?_
    rw [hsecond, hfirst, Bool.xor_assoc, Bool.xor_self, Bool.xor_false]
  · rw [hcollision, or_iff_right Bool.false_ne_true]
    refine exists₂_congr fun row col => ?_
    rw [hfirst]
    cases covered row col <;> cases d.1.pixel row col <;> decide

/-- The bytes read for a sprite are those at I, I + 1, .. (42_display.md R141). -/
theorem eq_bytesAtI {s : State} {rows : List Byte} {n : Nat} (hlen : rows.length = n)
    (hrows : ∀ k : Nat, ∀ hk : k < rows.length, rows[k] = s.memRead (s.i + BitVec.ofNat 16 k)) :
    rows = s.bytesAtI n := by
  refine List.ext_getElem (by simp [State.bytesAtI, hlen]) fun k hk _ => ?_
  simp [State.bytesAtI, hrows k hk, State.effAddr]

theorem flagByte_eq_one (c : Bool) : flagByte c = 1 ↔ c = true := by cases c <;> decide

theorem flagByte_zero_or_one (c : Bool) : flagByte c = 0 ∨ flagByte c = 1 := by cases c <;> decide

end Sys2Proof.Machine
end

section
/-! The obligations on drawing (42_display.md sections 1 and 2). -/

open Sys2Proof Sys2Proof.Machine

/-- Settles O44: both drawings toggle the same pixels, so the second meets an ON pixel where the first left one: a covered
pixel that was OFF. -/
theorem drawingTwiceRestoresTheScreen : Obligations.DrawingTwiceRestoresTheScreen :=
  fun fb x0 y0 rows => (toggles_drawSprite fb x0 y0 rows).twice (toggles_drawSprite _ x0 y0 rows)

/-- Settles O45: DRW is DrawSprite with the bytes at I, and its collision bit in VF. -/
theorem drwDrawsTheBytesAtI : Obligations.DrwDrawsTheBytesAtI := by
  intro x y n s rows hlen hrows
  obtain rfl : rows = s.bytesAtI n.val := eq_bytesAtI hlen hrows
  obtain ⟨hpixel, hcollision⟩ := toggles_drawSprite s.fb (s.reg x) (s.reg y) (s.bytesAtI n.val)
  obtain ⟨hparts, hregs⟩ := frame_drawn s (drawSprite s.fb (s.reg x) (s.reg y) (s.bytesAtI n.val)).1
    (flagByte (drawSprite s.fb (s.reg x) (s.reg y) (s.bytesAtI n.val)).2)
  refine ⟨_, rfl, hpixel, ?_, ?_, hregs, hparts⟩
  · rw [State.reg_setReg_self]
    exact flagByte_zero_or_one _
  · rw [State.reg_setReg_self, flagByte_eq_one, hcollision, or_iff_right Bool.false_ne_true]

end

section
/-! Memory through I and through pc (20_memory.md sections 1 to 3 and 7; 44_index_memory.md R183 to R186). -/

namespace Sys2Proof.Machine

theorem Memory.read_congr (m : Memory) {a c : Nat} (h : a % Config.memSize = c % Config.memSize) : m.read a = m.read c := by
  rw [Memory.read, Memory.read, h]

theorem mask_effAddr_ne (s : State) {j k : Nat} (hj : j < 16) (hk : k < 16) (h : j ≠ k) :
    mask (s.effAddr j) ≠ mask (s.effAddr k) := fun heq => h (mask_effAddr_inj s hj hk heq)

/-- Mask of the next address. -/
theorem mask_add_one (a : Word) : mask (a + 1) = (mask a + 1) % Config.memSize := by
  simp only [mask, BitVec.toNat_add, Config.memSize]
  rw [show (1 : Word).toNat = 1 from rfl]
  omega

theorem mask_effAddr_succ (s : State) (k : Nat) : mask (s.effAddr (k + 1)) = (mask (s.effAddr k) + 1) % Config.memSize := by
  simp only [mask, State.effAddr, BitVec.toNat_add, BitVec.toNat_ofNat, Config.memSize]
  omega

/-- The bytes after a bulk store are fetched where pc points at them. -/
theorem fetchWord_of_stored {s t : State} {k n : Nat} (hmem : ∀ a, t.memRead a = (s.storeRegs n).memRead a)
    (hpc : mask t.pc = mask (s.effAddr k)) (hk : k + 1 < n) (hn : n ≤ 16) :
    t.fetchWord = s.reg (Fin.ofNat 16 k) ++ s.reg (Fin.ofNat 16 (k + 1)) := by
  have hpc' : mask (t.pc + 1) = mask (s.effAddr (k + 1)) := by rw [mask_add_one, hpc, mask_effAddr_succ]
  have hhigh : t.memRead t.pc = s.reg (Fin.ofNat 16 k) := by
    rw [t.memRead_congr_mask hpc, hmem, s.memRead_storeRegs_stored n k (by omega) hn]
  have hlow : t.memRead (t.pc + 1) = s.reg (Fin.ofNat 16 (k + 1)) := by
    rw [t.memRead_congr_mask hpc', hmem, s.memRead_storeRegs_stored n (k + 1) hk hn]
  rw [State.fetchWord, State.wordAt, hhigh, hlow, wordOfBytes]

theorem State.storeRegs_advance (s : State) (n : Nat) : s.advance.storeRegs n = (s.storeRegs n).setPc (s.pc + 2) := by
  induction n with
  | zero => rfl
  | succ k ih => rw [State.storeRegs_succ, State.storeRegs_succ, ih]; rfl

end Sys2Proof.Machine
end

section
/-! The obligations on fetches and on the memory instructions (20_memory.md; 44_index_memory.md section 2). -/

open Sys2Proof Sys2Proof.Machine

/-- Settles O13: both bytes are read at Mask of their address, and Mask of pc + 1 is 0 after the last byte. -/
theorem fetchWrapsAtTheEndOfMemory : Obligations.FetchWrapsAtTheEndOfMemory := by
  have hfetch (s : State) {c : Nat} (hc : (s.pc + 1).toNat % 4096 = c % 4096) :
      s.fetchWord = s.mem.read (s.pc.toNat % 4096) ++ s.mem.read c := by
    rw [Memory.read_mod, ← Memory.read_congr s.mem hc]
    rfl
  have hnext (s : State) : (s.pc + 1).toNat % 4096 = (s.pc.toNat % 4096 + 1) % 4096 := mask_add_one s.pc
  refine ⟨fun s hpc => ?_, fun s _ => hfetch s (hnext s)⟩
  rw [← hpc]
  exact hfetch s (by rw [hnext, hpc])

/-- Settles O18: the two registers stored at Mask(pc) and at Mask(pc + 1). -/
theorem storedBytesAreFetchedByTheNextStep : Obligations.StoredBytesAreFetchedByTheNextStep := by
  intro s t x k hf hd hk hpc ht
  have hstep : step s = .next (s.advance.storeRegs (x.val + 1)) := step_of_decode hf hd
  cases hstep.symm.trans ht
  rw [State.storeRegs_advance]
  exact fetchWord_of_stored (fun _ => rfl) hpc (by omega) (by omega)

/-- Settles O52: each is one write of I. -/
theorem indexRegisterInstructionsSetI : Obligations.IndexRegisterInstructionsSetI := by
  refine ⟨fun nnn s => ⟨s.setI (addrOf nnn), rfl, toNat_addrOf nnn, sameBut_setI s _⟩,
    fun x s => ⟨⟨s.setI (s.i + wordOf (s.reg x)), rfl, ?_, sameBut_setI s _⟩,
      s.setI (wordOf (s.reg x) * 5), rfl, ?_, sameBut_setI s _⟩⟩
  · rw [State.i_setI, BitVec.toNat_add, toNat_wordOf]
  · have hfive : (5 : Word).toNat = 5 := rfl
    rw [State.i_setI, BitVec.toNat_mul, toNat_wordOf, hfive]
    omega

/-- Settles O53: three writes of different bytes. -/
theorem ldBStoresDecimalDigits : Obligations.LdBStoresDecimalDigits := by
  intro x s
  have hdigit {n : Nat} (hn : n < 256) : (BitVec.ofNat 8 n).toNat = n := Nat.mod_eq_of_lt hn
  have h01 := mask_effAddr_ne s (j := 0) (k := 1) (by decide) (by decide) (by decide)
  have h02 := mask_effAddr_ne s (j := 0) (k := 2) (by decide) (by decide) (by decide)
  have h12 := mask_effAddr_ne s (j := 1) (k := 2) (by decide) (by decide) (by decide)
  refine ⟨_, rfl, ?_, ?_, ?_, fun a ha => ?_, sameBut_withMem _ s⟩
  · simp only [State.memRead_memWrite, if_neg h02, if_neg h01, if_true, decimalDigits]
    exact hdigit (by omega)
  · simp only [State.memRead_memWrite, if_neg h12, if_true, decimalDigits]
    exact hdigit (by omega)
  · simp only [State.memRead_memWrite, if_true, decimalDigits]
    exact hdigit (by omega)
  · simp only [State.memRead_memWrite, if_neg (ha 0 (by decide)), if_neg (ha 1 (by decide)), if_neg (ha 2 (by decide))]

/-- Settles O54: what the bulk store puts at each address and leaves at the others. -/
theorem bulkStoreWritesRegistersAtI : Obligations.BulkStoreWritesRegistersAtI := by
  intro x s
  refine ⟨s.storeRegs (x.val + 1), rfl, fun k hk => ?_, fun a ha => ?_, sameBut_of_exec (i := .ldStore x) rfl⟩
  · rw [s.memRead_storeRegs_stored _ k.val (Nat.lt_succ_of_le hk) (by omega), Fin.ofNat_val_eq_self]
  · refine s.memRead_storeRegs_frame _ a fun k hk => ?_
    have hlt : k < 16 := by omega
    exact ha ⟨k, hlt⟩ (Fin.le_def.mpr (Nat.le_of_lt_succ hk))

/-- Settles O55: what the bulk load puts in each register and leaves in the others. -/
theorem bulkLoadReadsRegistersFromI : Obligations.BulkLoadReadsRegistersFromI := by
  refine fun x s => ⟨s.loadRegs (x.val + 1), rfl, fun k => ?_, sameBut_of_exec (i := .ldLoad x) rfl⟩
  rw [s.reg_loadRegs _ (by omega)]
  simp only [Fin.le_def, Nat.lt_succ_iff]

end

section
/-! The load (20_memory.md R66) and the session that is ready for its first step (60_exceptions.md R222). -/

namespace Sys2Proof.Machine

/-- What memory reads as after a load that fits. -/
theorem State.read_load_of_fits (s : State) {rom : List Byte} (hrom : rom.length ≤ Config.maxRom) {c : Nat}
    (hc : c < Config.memSize) : (s.load rom).mem.read c =
      if h : 0x200 ≤ c ∧ c < 0x200 + rom.length then rom[c - 0x200]'(by omega) else s.mem.read c := by
  have hfit : Config.programStart + rom.length ≤ Config.memSize := Nat.add_le_add_left hrom Config.programStart
  rw [State.load, if_pos ((romFits_iff rom).mpr hrom)]
  exact Memory.read_writeBytes s.mem Config.programStart rom hfit c hc

/-- The bytes of the ROM. -/
theorem State.read_load_inside (s : State) {rom : List Byte} (hrom : rom.length ≤ Config.maxRom) {j : Nat}
    (hj : j < rom.length) : (s.load rom).mem.read (0x200 + j) = rom[j] := by
  have hmax : rom.length ≤ 3584 := hrom
  rw [s.read_load_of_fits hrom (by simp only [Config.memSize]; omega), dif_pos (by omega)]
  simp only [Nat.add_sub_cancel_left]

/-- The bytes before and after the ROM. -/
theorem State.read_load_outside (s : State) {rom : List Byte} (hrom : rom.length ≤ Config.maxRom) {a : Nat}
    (ha : a < Config.memSize) (hout : a < 0x200 ∨ 0x200 + rom.length ≤ a) :
    (s.load rom).mem.read a = s.mem.read a := by
  rw [s.read_load_of_fits hrom ha, dif_neg (by omega)]

theorem State.load_of_not_fits (s : State) {rom : List Byte} (hrom : romFits rom = false) : s.load rom = s := by
  rw [State.load, hrom]; rfl

/-- The block as reset leaves it for its first step, with a memory: pc, the registers, SP and the fault status. -/
def Booted (m : Memory) (s : State) : Prop :=
  s.pc = 0x200 ∧ (∀ r : Index, s.reg r = 0) ∧ s.sp = 0 ∧ s.fault = none ∧ s.mem = m

/-- What stands in memory after the one load (10_state.md R41, 20_memory.md R66). -/
def loadedMemory (rom : List Byte) : Memory := (State.reset.load rom).mem

theorem booted_resetBlock (s : State) : Booted [] s.resetBlock := ⟨rfl, State.reg_reset, rfl, rfl, rfl⟩

/-- Ticks, keys and snapshots keep the block booted. -/
theorem Booted.of_transact {m : Memory} {s t : State} {tr : Transaction} (hs : Booted m s) (hreset : tr ≠ .reset)
    (hstep : tr ≠ .step) (hload : ∀ rom, tr ≠ .load rom) (h : transact tr s = .next t) : Booted m t := by
  cases tr with
  | reset => exact absurd rfl hreset
  | step => exact absurd rfl hstep
  | load rom => exact absurd rfl (hload rom)
  | setKey k p =>
    cases h
    simpa only [Booted, State.pc_setKey, State.reg_setKey, State.sp_setKey, State.fault_setKey, State.mem_setKey] using hs
  | tick | snapshot => cases h; exact hs

/-- The one load of a ROM that fits. -/
theorem Booted.load {s : State} (hs : Booted [] s) {rom : List Byte} (hrom : romFits rom = true) :
    Booted (loadedMemory rom) (s.load rom) := by
  obtain ⟨hpc, hreg, hsp, hfault, hmem⟩ := hs
  refine ⟨(s.pc_load rom).trans hpc, fun r => (s.reg_load rom r).trans (hreg r), (s.sp_load rom).trans hsp,
    (s.fault_load rom).trans hfault, ?_⟩
  simp only [loadedMemory, State.load, hrom, if_true, hmem]
  rfl

/-! The session, by the host's duties (60_exceptions.md R222; log 29). -/

theorem runSession_cons_next {tr : Transaction} {ts : List Transaction} {s t : State}
    (h : runSession (tr :: ts) s = .next t) : ∃ s', transact tr s = .next s' ∧ runSession ts s' = .next t := by
  rw [runSession] at h
  split at h
  · next s' hs' => exact ⟨s', hs', h⟩
  · cases h
  · cases h

/-- Ticks, keys and snapshots leave the host where it was. -/
theorem hostDuties_tail {p : HostPhase} {tr : Transaction} {ts : List Transaction} (hreset : tr ≠ .reset)
    (hstep : tr ≠ .step) (hload : ∀ rom, tr ≠ .load rom) (h : hostDuties p (tr :: ts) = true) :
    hostDuties p ts = true := by
  cases tr with
  | reset => exact absurd rfl hreset
  | step => exact absurd rfl hstep
  | load rom => exact absurd rfl (hload rom)
  | setKey k pressed =>
    rw [hostDuties] at h
    exact (Bool.and_eq_true_iff.mp h).2
  | tick | snapshot => cases p <;> exact h

/-- After the one load there is no other, and the block stays booted until its first step. -/
theorem Booted.of_loaded_session {m : Memory} {ts : List Transaction} {s t : State} (hs : Booted m s)
    (hduties : hostDuties .loaded ts = true) (hreset : Transaction.reset ∉ ts) (hstep : Transaction.step ∉ ts)
    (hrun : runSession ts s = .next t) : Booted m t ∧ ∀ rom, Transaction.load rom ∉ ts := by
  induction ts generalizing s with
  | nil => cases hrun; exact ⟨hs, fun _ => List.not_mem_nil⟩
  | cons tr ts ih =>
    obtain ⟨hreset1, hreset2⟩ := List.ne_and_not_mem_of_not_mem_cons hreset
    obtain ⟨hstep1, hstep2⟩ := List.ne_and_not_mem_of_not_mem_cons hstep
    have hload : ∀ rom, tr ≠ .load rom := by
      rintro rom rfl
      cases hduties
    obtain ⟨s', hs', hrun'⟩ := runSession_cons_next hrun
    have htail := hostDuties_tail hreset1.symm hstep1.symm hload hduties
    obtain ⟨ht, hnoload⟩ := ih (hs.of_transact hreset1.symm hstep1.symm hload hs') htail hreset2 hstep2 hrun'
    exact ⟨ht, fun rom => List.not_mem_cons_of_ne_of_not_mem (hload rom).symm (hnoload rom)⟩

/-- From a reset on, the ROM that fits is the one loaded. -/
theorem Booted.of_fresh_session {ts : List Transaction} {rom : List Byte} {s t : State} (hs : Booted [] s)
    (hduties : hostDuties .fresh ts = true) (hreset : Transaction.reset ∉ ts) (hstep : Transaction.step ∉ ts)
    (hload : Transaction.load rom ∈ ts) (hrom : romFits rom = true) (hrun : runSession ts s = .next t) :
    Booted (loadedMemory rom) t := by
  induction ts generalizing s with
  | nil => cases hload
  | cons tr ts ih =>
    obtain ⟨hreset1, hreset2⟩ := List.ne_and_not_mem_of_not_mem_cons hreset
    obtain ⟨hstep1, hstep2⟩ := List.ne_and_not_mem_of_not_mem_cons hstep
    obtain ⟨s', hs', hrun'⟩ := runSession_cons_next hrun
    by_cases hfirst : ∃ first, tr = .load first
    · obtain ⟨first, rfl⟩ := hfirst
      cases hs'
      cases hmade : romFits first with
      | true =>
        rw [hostDuties_fresh_load_made hmade] at hduties
        obtain ⟨ht, hnoload⟩ := (hs.load hmade).of_loaded_session hduties hreset2 hstep2 hrun'
        obtain heq | hlater := List.mem_cons.mp hload
        · cases heq; exact ht
        · exact absurd hlater (hnoload rom)
      | false =>
        rw [hostDuties_fresh_load_refused hmade] at hduties
        have hlater : Transaction.load rom ∈ ts := by
          refine List.mem_of_ne_of_mem (fun heq => ?_) hload
          cases heq
          exact Bool.false_ne_true (hmade.symm.trans hrom)
        rw [s.load_of_not_fits hmade] at hrun'
        exact ih hs hduties hreset2 hstep2 hlater hrun'
    · have hother : ∀ first, tr ≠ .load first := fun first heq => hfirst ⟨first, heq⟩
      have htail := hostDuties_tail hreset1.symm hstep1.symm hother hduties
      have hlater : Transaction.load rom ∈ ts := List.mem_of_ne_of_mem (hother rom).symm hload
      exact ih (hs.of_transact hreset1.symm hstep1.symm hother hs') htail hreset2 hstep2 hlater hrun'

end Sys2Proof.Machine
end

section
/-! The obligations on reset and on the host's transactions (10_state.md section 13; 20_memory.md section 8;
60_exceptions.md sections 3 and 5). -/

open Sys2Proof Sys2Proof.Machine

/-- Settles O1: each part of the reset state read off, and the reset transaction, which is that state but for the draws. -/
theorem resetLeavesEveryPartAtItsResetValue : Obligations.ResetLeavesEveryPartAtItsResetValue := by
  have hmem {a : Nat} (ha : a < 4096) : State.reset.mem.read a = fontByte Config.default.font a :=
    State.resetUnder_default ▸ read_resetUnder Config.default ha
  exact ⟨⟨State.reg_reset, rfl, rfl, rfl, State.stackEntry_reset, rfl, rfl,
    fun d r hd hr => (hmem (by omega)).trans (fontByte_glyph _ hd hr),
    fun a hfont ha => (hmem ha).trans (fontByte_of_ge _ hfont), Framebuffer.pixel_clear, State.keyPressed_reset, rfl⟩,
    fun s => ⟨s.resetBlock, rfl, sameBut_draws State.reset s.draws, rfl⟩⟩

/-- Settles O56: the load by whether the ROM fits. -/
theorem loadWritesTheRomOrNothing : Obligations.LoadWritesTheRomOrNothing := by
  refine fun rom s => ⟨fun hfits => ⟨?_, s.load rom, rfl, fun j hj => s.read_load_inside hfits hj,
    fun a ha hout => s.read_load_outside hfits ha hout, sameBut_load s rom⟩, fun hlong => ?_⟩
  · exact if_pos ((romFits_iff rom).mpr hfits)
  · have hrom : romFits rom = false := decide_eq_false (not_le.mpr hlong)
    exact ⟨by rw [reply, hrom]; rfl, congrArg Host.Outcome.next (s.load_of_not_fits hrom)⟩

/-- Settles O57: each is its definition, at a key that the interface refuses. -/
theorem snapshotSoundAndRefusedKeys : Obligations.SnapshotSoundAndRefusedKeys := by
  refine fun s => ⟨⟨rfl, rfl⟩, fun k p hk => ⟨?_, if_neg (not_lt.mpr hk)⟩, bne_iff_ne⟩
  exact congrArg Host.Outcome.next (dif_neg (not_lt.mpr hk))

/-- Settles O59: the host's phase decides what the block holds, the reset memory before the one load and the loaded one
after it. -/
theorem dutifulSessionIsReadyForItsFirstStep : Obligations.DutifulSessionIsReadyForItsFirstStep := by
  intro ts rom s t hduties hreset hstep hload hrom hrun
  obtain ⟨s', hs', hrun'⟩ := runSession_cons_next hrun
  cases hs'
  have hfits : romFits rom = true := (romFits_iff rom).mpr hrom
  obtain ⟨hpc, hreg, hsp, hfault, hmem⟩ :=
    (booted_resetBlock s).of_fresh_session hduties hreset hstep hload hfits hrun'
  refine ⟨hpc, hreg, hsp, hfault, fun j hj => ?_, fun a hafter ha => ?_⟩
  · rw [hmem]
    exact State.reset.read_load_inside hrom hj
  · have hzero : State.reset.mem.read a = 0 := by
      rw [← State.resetUnder_default, read_resetUnder Config.default ha]
      exact fontByte_of_ge _ (show 80 ≤ a by omega)
    rw [hmem]
    exact (State.reset.read_load_outside hrom ha (.inr hafter)).trans hzero

end
